-- ==== Sys2Proof/Word.lean ====
section
/-!
DEFINITION. The word types of the frame receiver: a byte, the 9-bit RX word of R72 and the 1-bit selector of R74 to R76.
Bit 0 is the least significant bit (R13), and every value is unsigned (R14).
-/

namespace Sys2Proof

/-- An unsigned 8-bit channel value (R13, R21). -/
abbrev Byte := BitVec 8

/-- The RX word RXW: bit 8 is the valid bit v, bits 7 to 0 the data d (R72). -/
abbrev RxWord := BitVec 9

/-- A one-bit operation selector: RST, LVS or FCS (R74 to R76). -/
abbrev Selector := BitVec 1

end Sys2Proof
end

