-- ==== Sys2Proof/Config.lean ====
section
/-!
DEFINITION. The implementation parameters of R9, the default configuration, and the free values of the environment (R182).
-/

namespace Sys2Proof

/-- An electrical level of the indicator pin (R9, IND_ACTIVE_LEVEL; D9). -/
inductive Level where
  | low
  | high
deriving DecidableEq, Repr

/-- RXQ_OVERFLOW: what the transport does with a byte that arrives when its queue is full (R9, D13). -/
inductive Overflow where
  /-- The arriving byte is lost. -/
  | dropNew
  /-- The head of the queue is lost. -/
  | dropOld
  /-- The sender is held back, and no byte is lost. -/
  | stall
deriving DecidableEq, Repr

/-- The parameters of R9, fixed at build time (R31, D26). A state carries its configuration, and no step changes it, so a
statement about every state is a statement about every configuration (log 1). -/
structure Config where
  /-- W, the grid width in pixels. -/
  gridW : Nat
  /-- H, the grid height in pixels. -/
  gridH : Nat
  /-- T_MS, the staleness threshold in time units. -/
  tMs : Nat
  /-- TIME_W, the width in bits of time values (D5). -/
  timeW : Nat
  /-- RXQ_DEPTH, the capacity in bytes of the transport's receive queue (OPEN, D13). -/
  rxqDepth : Nat
  /-- RXQ_OVERFLOW (OPEN, D13). -/
  rxqOverflow : Overflow
  /-- IND_ACTIVE_LEVEL, the level of the indicator pin for "active" (OPEN, D9). -/
  indActiveLevel : Level
  /-- IND_AT_RESET, the logical indicator value after reset (OPEN, D8); true is active. -/
  indAtReset : Bool
  /-- LINK_RATE in symbols per second: informative only, no rule depends on it (R9, R212). -/
  linkRate : Nat
deriving DecidableEq, Repr

/-- CH, the channels per pixel (R9, fixed). -/
def channelsPerPixel : Nat := 3

/-- TIME_UNIT, the duration of one unit of `now` in milliseconds (R9, D4, fixed). -/
def timeUnitMs : Nat := 1

/-- The configuration State.reset carries. W, H, T_MS, TIME_W and LINK_RATE hold the defaults of R9. The four OPEN parameters
have no default in the spec: their values here are a DESIGN CHOICE, unsafe to lean on (log 2). -/
def Config.default : Config :=
  { gridW := 20, gridH := 10, tMs := 1000, timeW := 32, rxqDepth := 1024, rxqOverflow := .dropNew,
    indActiveLevel := .high, indAtReset := false, linkRate := 230400 }

/-- Free value: the `rst` level of the k-th cycle the schedule does not fix (R182, log 5). -/
opaque Config.freeRst : Nat → Bool

/-- Free value: the time of the k-th cycle the schedule does not fix, before it is narrowed to TIME_W bits (R182, log 5). -/
opaque Config.freeNow : Nat → Nat

/-- Free value: the bytes that arrive before the k-th cycle the schedule does not fix (R182, log 5). -/
opaque Config.freeArrivals : Nat → List Byte

/-- Free value: what `rx_data` carries in the k-th cycle the schedule does not fix, if no byte is available (R73, log 5). -/
opaque Config.freeBus : Nat → Byte

end Sys2Proof
end

