-- ==== Sys2Proof/Syntax.lean ====
section
/-!
DEFINITION. The operations of the frame receiver (R2, R77: they stand where an instruction set's instructions would stand),
the words that select them, and the cycle input records (R71).
-/

namespace Sys2Proof

/-- The operations, one constructor for each row of the opcode table (R77). -/
inductive Instr where
  /-- RESET (R190), selected by the RST word `1`. -/
  | reset
  /-- ACCEPT_BYTE (R102), selected by the RX word `1dddddddd`; `d` is the data byte. -/
  | acceptByte (d : Byte)
  /-- NO_BYTE (R106), selected by the RX word `0dddddddd`. It has no operand: d is ignored (R73). -/
  | noByte
  /-- LIVE_ACTIVE (R123), selected by the LVS word `0`. -/
  | liveActive
  /-- LIVE_STALE (R125), selected by the LVS word `1`. -/
  | liveStale
  /-- FRAME_NONE (R141), selected by the FCS word `0`. -/
  | frameNone
  /-- FRAME_COMPLETE (R142), selected by the FCS word `1`. -/
  | frameComplete
deriving DecidableEq, Repr

/-- The four selector formats of the opcode map (R77). -/
inductive Format where
  | rst
  | rxw
  | lvs
  | fcs
deriving DecidableEq, Repr

/-- A selector word with its format. The three one-bit formats share the words 0 and 1, so a word has a meaning only together
with its format (R77). -/
inductive OpWord where
  | rst (w : Selector)
  | rxw (w : RxWord)
  | lvs (w : Selector)
  | fcs (w : Selector)
deriving DecidableEq, Repr

/-- The kind of a present (R78, D16). -/
inductive PresentKind where
  /-- A present of a completed frame. -/
  | frame
  /-- The stale-link present of the all-zero buffer. -/
  | blank
deriving DecidableEq, Repr

/-- The core-cycle phase (R28, R148). -/
inductive Phase where
  | accumulating
  | presenting
deriving DecidableEq, Repr

/-- The cycle input record CIN of the block alone (R71). -/
structure Cin where
  /-- The `rst` input: true selects RESET (R76). -/
  rst : Bool
  /-- The time sample, a TIME_W-bit value (R33). -/
  now : Nat
  /-- The RX word (R72). -/
  rxw : RxWord
deriving DecidableEq, Repr

/-- What the environment does before and in one core cycle (R182): the bytes that arrive between the cycle before and this one,
and the inputs of this cycle. The RX word is formed from the transport's queue (R87). -/
structure CycleInput where
  /-- The bytes that arrive before the cycle, in the order sent. -/
  arrivals : List Byte
  /-- The `rst` input of the cycle. -/
  rst : Bool
  /-- The time sample of the cycle. -/
  now : Nat
  /-- What `rx_data` carries if no byte is available; the block ignores it (R70, R73). -/
  bus : Byte
deriving DecidableEq, Repr

end Sys2Proof
end

