-- ==== Sys2Proof/WellFormed.lean ====
section
/-!
DEFINITION. What is admitted: configurations (R11), cycle input records (R73), operations (R82), and the selector combinations
that a core cycle can show (R77).
-/

namespace Sys2Proof

/-- R11: the configurations a model gives runs to. Every other configuration is refused. -/
def Config.admitted (c : Config) : Bool :=
  decide (1 ≤ c.gridW) && decide (1 ≤ c.gridH) && decide (1 ≤ c.timeW) && decide (c.tMs ≤ 2 ^ c.timeW - 2) &&
    decide (1 ≤ c.rxqDepth)

/-- R73: an input record is well typed when its `now` is in `[0, 2^TIME_W)`; its other fields cannot be ill typed here. -/
def CycleInput.wellTyped (c : Config) (i : CycleInput) : Bool :=
  decide (i.now < 2 ^ c.timeW)

/-- R73 for the input record of the block alone. -/
def Cin.wellTyped (c : Config) (i : Cin) : Bool :=
  decide (i.now < 2 ^ c.timeW)

/-- R82: there is no reserved or illegal operation, and every byte value is data; every term of `Instr` is well formed. -/
def Instr.wellFormed : Instr → Bool
  | .reset => true
  | .acceptByte _ => true
  | .noByte => true
  | .liveActive => true
  | .liveStale => true
  | .frameNone => true
  | .frameComplete => true

/-- R77: the four combinations of the RX valid bit v, the liveness selector s and the frame selector c that occur. -/
def reachableSelectors (v s c : Bool) : Bool :=
  match v, s, c with
  | false, false, false => true
  | false, true, false => true
  | true, false, false => true
  | true, false, true => true
  | false, false, true => false
  | false, true, true => false
  | true, true, false => false
  | true, true, true => false

end Sys2Proof
end

