-- ==== Sys2Proof/Decode.lean ====
section
/-!
DEFINITION. The decoder and the encoder of the selector words (R72 to R77), over typed words and over bytes. A word is laid out
in whole bytes, least significant byte first, with the bits above the format's width 0 (R13; the byte layout is the host
interface's, log 11).
-/

namespace Sys2Proof

/-! ## Fields -/

/-- The RX word of a byte: `1` above `b` (R72). -/
def rxSome (b : Byte) : RxWord := (1#1 ++ b : BitVec 9)

/-- The RX word of no byte: `0` above `d`, whatever `d` is (R72, R73). -/
def rxNone (d : Byte) : RxWord := (0#1 ++ d : BitVec 9)

/-- The valid bit v of an RX word, bit 8 (R72). -/
def rxValid (w : RxWord) : Bool := w.getLsbD 8

/-- The data field d of an RX word, bits 7 to 0 (R72). -/
def rxData (w : RxWord) : Byte := w.extractLsb' 0 8

/-! ## Decoding by format -/

/-- R76: the RST word `1` selects RESET; `0` selects no operation of this format (the three slots run). -/
def decodeRst (w : Selector) : Option Instr :=
  if w = 1#1 then some .reset else none

/-- R101, R77: the RX word selects ACCEPT_BYTE or NO_BYTE by its valid bit. Every RX word decodes (R73). -/
def decodeRxw (w : RxWord) : Instr :=
  if rxValid w then .acceptByte (rxData w) else .noByte

/-- R74: the LVS word selects LIVE_STALE or LIVE_ACTIVE. -/
def decodeLvs (w : Selector) : Instr :=
  if w = 1#1 then .liveStale else .liveActive

/-- R75: the FCS word selects FRAME_COMPLETE or FRAME_NONE. -/
def decodeFcs (w : Selector) : Instr :=
  if w = 1#1 then .frameComplete else .frameNone

/-- Why the decoder answers no operation. -/
inductive DecodeError where
  /-- The RST word is 0: no operation of this format; the cycle runs its three slots (R76). -/
  | slotsRun
  /-- The number of bytes is not the format's. -/
  | wrongLength
  /-- A bit above the format's width is 1. -/
  | bitsAboveFormat
deriving DecidableEq, Repr

/-- The opcode map of R77: the operation a word selects. -/
def decode : OpWord → Except DecodeError Instr
  | .rst w =>
    match decodeRst w with
    | some i => .ok i
    | none => .error .slotsRun
  | .rxw w => .ok (decodeRxw w)
  | .lvs w => .ok (decodeLvs w)
  | .fcs w => .ok (decodeFcs w)

/-! ## Words and bytes -/

/-- The width in bits of a format's words (R77). -/
def Format.width : Format → Nat
  | .rst => 1
  | .rxw => 9
  | .lvs => 1
  | .fcs => 1

/-- The whole bytes a format's words take. -/
def Format.byteCount : Format → Nat
  | .rst => 1
  | .rxw => 2
  | .lvs => 1
  | .fcs => 1

/-- The format of a word. -/
def OpWord.format : OpWord → Format
  | .rst _ => .rst
  | .rxw _ => .rxw
  | .lvs _ => .lvs
  | .fcs _ => .fcs

/-- The number a word's bits spell, bit 0 least significant (R13). -/
def OpWord.bits : OpWord → Nat
  | .rst w => w.toNat
  | .rxw w => w.toNat
  | .lvs w => w.toNat
  | .fcs w => w.toNat

/-- The word of a format with the given bits; bits above the format's width are dropped. -/
def Format.word : Format → Nat → OpWord
  | .rst, n => .rst (BitVec.ofNat 1 n)
  | .rxw, n => .rxw (BitVec.ofNat 9 n)
  | .lvs, n => .lvs (BitVec.ofNat 1 n)
  | .fcs, n => .fcs (BitVec.ofNat 1 n)

/-- The number that bytes spell, least significant byte first. -/
def natOfBytes : List Byte → Nat
  | [] => 0
  | b :: bs => b.toNat + 256 * natOfBytes bs

/-- The `k` least significant bytes of a number, least significant first. -/
def bytesOfNat : Nat → Nat → List Byte
  | 0, _ => []
  | k + 1, n => BitVec.ofNat 8 n :: bytesOfNat k (n / 256)

/-- The bytes of a word. -/
def OpWord.toBytes (w : OpWord) : List Byte :=
  bytesOfNat w.format.byteCount w.bits

/-- Decode the bytes of a word of the given format: total on any bytes, and each rejection has a name. -/
def decodeBytes (f : Format) (bs : List Byte) : Except DecodeError Instr :=
  if bs.length ≠ f.byteCount then .error .wrongLength
  else if natOfBytes bs ≥ 2 ^ f.width then .error .bitsAboveFormat
  else decode (f.word (natOfBytes bs))

/-! ## The encoder -/

/-- The format an operation is selected in (R77). -/
def Instr.format : Instr → Format
  | .reset => .rst
  | .acceptByte _ => .rxw
  | .noByte => .rxw
  | .liveActive => .lvs
  | .liveStale => .lvs
  | .frameNone => .fcs
  | .frameComplete => .fcs

/-- The word that selects an operation (R77). NO_BYTE's ignored field is written 0x00, as a script writes it (R87, D20). -/
def encode : Instr → OpWord
  | .reset => .rst 1#1
  | .acceptByte d => .rxw (rxSome d)
  | .noByte => .rxw (rxNone 0#8)
  | .liveActive => .lvs 0#1
  | .liveStale => .lvs 1#1
  | .frameNone => .fcs 0#1
  | .frameComplete => .fcs 1#1

/-- The bytes of the word that selects an operation. -/
def encodeBytes (i : Instr) : List Byte := (encode i).toBytes

/-- The bits of the word that select the operation: the `mask` column of the opcode table. -/
def Instr.tableMask : Instr → Nat
  | .reset => 0x1
  | .acceptByte _ => 0x100
  | .noByte => 0x100
  | .liveActive => 0x1
  | .liveStale => 0x1
  | .frameNone => 0x1
  | .frameComplete => 0x1

/-- The value of the selecting bits: the `match` column of the opcode table. -/
def Instr.tableMatch : Instr → Nat
  | .reset => 0x1
  | .acceptByte _ => 0x100
  | .noByte => 0x000
  | .liveActive => 0x0
  | .liveStale => 0x1
  | .frameNone => 0x0
  | .frameComplete => 0x1

/-- The first of the formats whose decoder takes the bytes. -/
def decodeFirst : List Format → List Byte → Option Instr
  | [], _ => none
  | f :: fs, bs =>
    match decodeBytes f bs with
    | .ok i => some i
    | .error _ => decodeFirst fs bs

/-- The operation the decoder reads from `w` with no format given: the formats are tried in the order of the opcode table's
rows. A one-byte word of value 1 is RESET's, LIVE_STALE's and FRAME_COMPLETE's word alike, and one of value 0 is LIVE_ACTIVE's and
FRAME_NONE's: without the format the first such row is answered (log 11). -/
def decodeTableWord (nbits w : Nat) : Option Instr :=
  let k := if nbits ≤ 8 then 1 else if nbits ≤ 16 then 2 else 0
  if w < 256 ^ k then decodeFirst [.rst, .rxw, .lvs, .fcs] (bytesOfNat k w) else none

end Sys2Proof
end

