-- ==== Sys2Proof/Machine/Params.lean ====
section
/-!
DEFINITION. The values derived from the parameters (R9, R10).
-/

namespace Sys2Proof

/-- NPIX, the pixels of a frame (R9). -/
def Config.pixels (c : Config) : Nat := c.gridW * c.gridH

/-- F, the bytes of a frame: W × H × 3 (R10). -/
def Config.frameBytes (c : Config) : Nat := c.pixels * channelsPerPixel

/-- `ceil(log2 n)` for `n ≥ 2`. -/
def ceilLog2 (n : Nat) : Nat := (n - 1).log2 + 1

/-- CURSOR_W, the width in bits of the cursor register: `ceil(log2 F)` (R9, D23). -/
def Config.cursorW (c : Config) : Nat := ceilLog2 c.frameBytes

/-- The number of time values, 2^TIME_W (R14). -/
def Config.timeModulus (c : Config) : Nat := 2 ^ c.timeW

end Sys2Proof
end

