-- ==== Sys2Proof/Machine/State.lean ====
section
/-!
DEFINITION. The state of the machine as plain data: the block state of R20 with its configuration, the output ports that keep a
level, the values local to one core cycle (R26 to R28), the transport's queue (R32), the observation of a run (R34) and the
environment's schedule (R182).
-/

namespace Sys2Proof.Machine

/-- The frame buffer as a list of (address, byte) cells in one canonical form (`Memory.wf`): an address with no cell reads 0, the
reset value of R21. -/
abbrev Memory := List Host.Cell

/-- A present event: the triple `(kind, snap, t)` of R78. -/
structure Present where
  /-- FRAME or BLANK (D16). -/
  kind : PresentKind
  /-- The F bytes of the frame buffer in address order. -/
  snap : List Byte
  /-- The `now` of the cycle. -/
  t : Nat
deriving DecidableEq, Repr

/-- The machine. INVENTORY.md lists each field with the rule that names it. -/
structure State where
  /-- The build-time parameters (R9, R31); no step changes them. -/
  cfg : Config
  /-- The frame buffer (R21). -/
  fb : Memory
  /-- The assembly cursor (R22). -/
  cursor : Nat
  /-- The last-byte timestamp `last_t` (R24). -/
  lastT : Nat
  /-- The liveness indicator, true = active (R25). -/
  ind : Bool
  /-- The strobe `rx_pop` of the last cycle (R80). -/
  rxPop : Bool
  /-- The strobe `rx_flush` of the last cycle (R80). -/
  rxFlush : Bool
  /-- Local to a cycle: its time sample (R33, R71). -/
  now : Nat
  /-- Local to a cycle: the count n of R102 and R106. -/
  n : Nat
  /-- Local to a cycle: frame complete (R27, R103). -/
  complete : Bool
  /-- The transport's receive queue, head first (R32). -/
  rxq : List Byte
  /-- Bytes the sender holds back while the queue is full, under Stall (D13, log 7). -/
  held : List Byte
  /-- The present log, oldest first (R34, R145). -/
  presents : List Present
  /-- The indicator trace, oldest first: `ind` after each core cycle (R34, log 8). -/
  indTrace : List Bool
  /-- The model's own: the inputs of the coming cycles as far as the environment has fixed them (R182, log 5). -/
  inputs : List CycleInput
  /-- The model's own: how many cycles have taken free environment values (R182, log 5). -/
  draws : Nat
deriving DecidableEq, Repr

/-- Why the machine stops with a fault. The block itself raises no fault (R170). -/
inductive Fault where
  /-- Raised by the frame-buffer write of ACCEPT_BYTE at an address outside `[0, F)`, which R59 says does not exist. Safe: only
  a state with `cursor ≥ F` reaches it, and no run from reset does (R52, R151). -/
  | noSuchAddress (a : Nat)
deriving DecidableEq, Repr

/-- Why the model gives no run. -/
inductive Refusal where
  /-- Raised by an arm of `exec` whose operation has no meaning yet. No arm raises it now. Safe. -/
  | notModelled (mnemonic : String)
  /-- Raised by `step` for a configuration that R11 does not admit. Safe: R11 orders the refusal. -/
  | inadmissibleConfig
  /-- Raised by `step` for an input record whose `now` is outside `[0, 2^TIME_W)` (R73). Safe: R73 orders the refusal. -/
  | illTypedInput
deriving DecidableEq, Repr

/-- The outcome of a step or of an operation. -/
abbrev Result := Host.Outcome State Fault Refusal

/-- R192, for the default configuration: the buffer blank, the cursor 0, the indicator at IND_AT_RESET, the strobes 0, no value
local to a cycle. `last_t` is the time of the reset cycle, here 0 (log 3). The transport's queue, the observation and the
schedule are empty (log 12, log 5). -/
def State.reset : State :=
  { cfg := Config.default, fb := [], cursor := 0, lastT := 0, ind := Config.default.indAtReset, rxPop := false,
    rxFlush := false, now := 0, n := 0, complete := false, rxq := [], held := [], presents := [], indTrace := [],
    inputs := [], draws := 0 }

end Sys2Proof.Machine
end

