-- ==== Sys2Proof/Machine/Operands.lean ====
section
/-!
DEFINITION. The operands of the operations (R83): the address of the next byte, its pixel and channel (R51, R108), and the
count n of R102 and R106.
-/

namespace Sys2Proof.Machine

/-- The frame-buffer address ACCEPT_BYTE writes: the cursor itself (R23, R108). -/
def byteAddress (s : State) : Nat := s.cursor

/-- The pixel of an address: `a / 3` (R51, R108). -/
def pixelIndex (a : Nat) : Nat := a / channelsPerPixel

/-- The channel of an address: `a mod 3` (R51, R108). -/
def channelIndex (a : Nat) : Nat := a % channelsPerPixel

/-- The address of pixel `k`, channel `c`: `3k + c` (R10, R51). -/
def addressOf (k c : Nat) : Nat := channelsPerPixel * k + c

/-- The count n after an accepted byte: `cursor + 1`, exact (R12, R102). -/
def countAfterByte (s : State) : Nat := s.cursor + 1

/-- The count n after a poll that found no byte: the cursor (R106). -/
def countAfterNoByte (s : State) : Nat := s.cursor

end Sys2Proof.Machine
end

