-- ==== Sys2Proof/Machine/Flags.lean ====
section
/-!
DEFINITION. The booleans derived in each core cycle (R26, R27, R36) and the selector words formed from them (R74 to R76).
-/

namespace Sys2Proof.Machine

/-- The elapsed time `now −_w last`: the subtraction of `w`-bit values (R14, R121, D6). -/
def elapsed (w now last : Nat) : Nat := (BitVec.ofNat w now - BitVec.ofNat w last).toNat

/-- R121: stale, that is `elapsed > T_MS`, for a configuration, a time and a timestamp. -/
def staleAt (c : Config) (now last : Nat) : Bool := decide (c.tMs < elapsed c.timeW now last)

/-- Stale in the current cycle: the timestamp is that after the RX slot (R26, R121). -/
def isStale (s : State) : Bool := staleAt s.cfg s.now s.lastT

/-- Link active, the negation of stale: `elapsed ≤ T_MS` (R26). -/
def linkActive (s : State) : Bool := decide (elapsed s.cfg.timeW s.now s.lastT ≤ s.cfg.tMs)

/-- R103: frame complete for a count n. -/
def completesFrame (c : Config) (n : Nat) : Bool := n == c.frameBytes

/-- The one-bit word of a boolean: 1 for true. -/
def selectorOf (b : Bool) : Selector := if b then 1#1 else 0#1

/-- RST, the reset selector (R76). -/
def rstSelector (c : Cin) : Selector := selectorOf c.rst

/-- LVS, the liveness selector (R74). -/
def lvsSelector (s : State) : Selector := selectorOf (isStale s)

/-- FCS, the frame selector (R75): the frame-complete signal of the RX slot (R140). -/
def fcsSelector (s : State) : Selector := selectorOf s.complete

/-- R28: the phase, PRESENTING while the frame-complete signal stands. -/
def State.phase (s : State) : Phase := if s.complete then .presenting else .accumulating

end Sys2Proof.Machine
end

