-- ==== Sys2Proof/Machine/Ops.lean ====
section
/-!
DEFINITION. The named operations over the frame buffer, the transport, the indicator and the present log (R15), and the
bookkeeping of a core cycle. The block takes no exception and has no return from one (R170, R175, R176), so there is no such
operation here.
-/

namespace Sys2Proof.Machine

/-! ## The frame buffer (20_memory.md) -/

/-- What an address with no cell reads as: 0, the reset contents of every byte (R21, R190). -/
def unlistedByte : Byte := 0#8

/-- The byte at an address. -/
def Memory.read : Memory → Nat → Byte
  | [], _ => unlistedByte
  | (b, v) :: m, a => if a = b then v else Memory.read m a

/-- A cell, unless its byte is what an unlisted address reads as. -/
def Memory.cell (a : Nat) (v : Byte) (m : Memory) : Memory :=
  if v = unlistedByte then m else (a, v) :: m

/-- Set the byte at an address and leave every other byte (R52), in canonical form. -/
def Memory.write : Memory → Nat → Byte → Memory
  | [], a, v => Memory.cell a v []
  | (b, w) :: m, a, v =>
    if a < b then Memory.cell a v ((b, w) :: m)
    else if a = b then Memory.cell a v m
    else (b, w) :: Memory.write m a v

/-- The blank frame buffer: every byte 0 (R54). -/
def Memory.blank : Memory := []

/-- The canonical form of a memory of `size` bytes from address `lo` up: addresses strictly rising and below `size`, and no cell
that holds what an unlisted address reads as. -/
def Memory.wfFrom (size : Nat) : Nat → Memory → Bool
  | _, [] => true
  | lo, (a, v) :: m => decide (lo ≤ a) && decide (a < size) && decide (v ≠ unlistedByte) && Memory.wfFrom size (a + 1) m

/-- The canonical form of a frame buffer of `size` bytes. -/
def Memory.wf (size : Nat) (m : Memory) : Bool := Memory.wfFrom size 0 m

/-- The snapshot of a present: the bytes `0` to `size − 1` in address order (R53, R145). -/
def Memory.snapshot (size : Nat) (m : Memory) : List Byte := (List.range size).map (Memory.read m)

/-- `MemRead(a, 1)`: the byte at `a`, or nothing where no address exists (R53, R59). -/
def memRead (s : State) (a : Nat) : Option Byte :=
  if a < s.cfg.frameBytes then some (Memory.read s.fb a) else none

/-- `MemWrite(a, 1, v)`: one byte written, or nothing where no address exists (R52, R59). -/
def memWrite (s : State) (a : Nat) (v : Byte) : Option State :=
  if a < s.cfg.frameBytes then some { s with fb := Memory.write s.fb a v } else none

/-- `MemClear()`: every byte 0, in one atomic step (R54). -/
def memClear (s : State) : State := { s with fb := Memory.blank }

/-! ## The registers -/

/-- `s.cursor <- v` (R22). -/
def setCursor (v : Nat) (s : State) : State := { s with cursor := v }

/-- The timestamp refresh: `s.last_t <- now` (R109, R190). -/
def refreshTimestamp (s : State) : State := { s with lastT := s.now }

/-- `DriveIndicator(x)` (R124). -/
def driveIndicator (x : Bool) (s : State) : State := { s with ind := x }

/-- The strobe `rx_pop` (R80). -/
def strobePop (x : Bool) (s : State) : State := { s with rxPop := x }

/-- The strobe `rx_flush` (R80). -/
def strobeFlush (x : Bool) (s : State) : State := { s with rxFlush := x }

/-- The RX slot's count n and its frame-complete signal (R102, R106). -/
def setCount (n : Nat) (complete : Bool) (s : State) : State := { s with n := n, complete := complete }

/-! ## The collaborators -/

/-- `Present(kind, fb, now)`: a snapshot of the buffer, appended to the present log; no block state changes (R145). -/
def present (kind : PresentKind) (s : State) : State :=
  { s with presents := s.presents ++ [⟨kind, Memory.snapshot s.cfg.frameBytes s.fb, s.now⟩] }

/-- `RxFlush()`, the drain: every byte the queue holds at this instant is discarded (R146). A byte the sender holds back is not in
the queue and stays. -/
def rxFlushQueue (s : State) : State := { s with rxq := [] }

/-- `RxPoll()`: the RX word of the queue's head, which leaves the queue; or, of an empty queue, the word of no byte, with whatever
`rx_data` carries (R100, R73). -/
def rxPoll (bus : Byte) (s : State) : RxWord × State :=
  match s.rxq with
  | [] => (rxNone bus, s)
  | b :: q => (rxSome b, { s with rxq := q })

/-! ## The environment between cycles (R182) -/

/-- One byte arrives at a queue with the given bytes held back: it is appended while there is room, and otherwise treated as
RXQ_OVERFLOW says (R87, D13). -/
def offer (c : Config) (p : List Byte × List Byte) (b : Byte) : List Byte × List Byte :=
  if p.1.length < c.rxqDepth then (p.1 ++ [b], p.2)
  else
    match c.rxqOverflow with
    | .dropNew => p
    | .dropOld => (p.1.tail ++ [b], p.2)
    | .stall => (p.1, p.2 ++ [b])

/-- Bytes arrive one after another. -/
def offerAll (c : Config) : List Byte × List Byte → List Byte → List Byte × List Byte
  | p, [] => p
  | p, b :: bs => offerAll c (offer c p b) bs

/-- The arrivals between two cycles: first the bytes the sender held back, then the new ones, in the order sent (R66, log 7). -/
def arrive (bs : List Byte) (s : State) : State :=
  let p := offerAll s.cfg (s.rxq, []) (s.held ++ bs)
  { s with rxq := p.1, held := p.2 }

/-- The free input record of the k-th cycle the schedule does not fix; its time is narrowed to TIME_W bits (R182, log 5). -/
def freeInput (c : Config) (k : Nat) : CycleInput :=
  { arrivals := Config.freeArrivals k, rst := Config.freeRst k, now := Config.freeNow k % c.timeModulus,
    bus := Config.freeBus k }

/-- The next cycle's input record: the head of the schedule, or a free one where the schedule is empty (R182, log 5). -/
def takeInput (s : State) : CycleInput × State :=
  match s.inputs with
  | i :: is => (i, { s with inputs := is })
  | [] => (freeInput s.cfg s.draws, { s with draws := s.draws + 1 })

/-! ## The frame of a core cycle -/

/-- The cycle's time sample is taken (R71). -/
def openCycle (now : Nat) (s : State) : State := { s with now := now }

/-- The cycle is over: no value local to it lasts (R20, log 4). -/
def closeCycle (s : State) : State := { s with now := 0, n := 0, complete := false }

/-- The indicator trace gains the level after a core cycle (R34, log 8). -/
def recordIndicator (s : State) : State := { s with indTrace := s.indTrace ++ [s.ind] }

/-- Go on with the next state; a fault or a refusal ends the step. -/
def Result.andThen (r : Result) (f : State → Result) : Result :=
  match r with
  | .next s => f s
  | .fault e => .fault e
  | .refused e => .refused e

end Sys2Proof.Machine
end

