-- ==== Sys2Proof/Machine/Frame.lean ====
section
/-!
DEFINITION. The operations of the frame slot: FRAME_NONE and FRAME_COMPLETE (42_frame_cycle.md).
-/

namespace Sys2Proof.Machine

/-- FRAME_NONE (R141): the cursor takes the count n of the RX slot. -/
def execFrameNone (s : State) : Result := .next (strobeFlush false (setCursor s.n s))

/-- FRAME_COMPLETE (R142, R143): the frame is presented, then the cursor set to 0, then the transport drained; the phase returns to
ACCUMULATING. -/
def execFrameComplete (s : State) : Result :=
  .next (setCount s.n false (strobeFlush true (rxFlushQueue (setCursor 0 (present .frame s)))))

end Sys2Proof.Machine
end

