-- ==== Sys2Proof/Machine/Liveness.lean ====
section
/-!
DEFINITION. The operations of the liveness slot: LIVE_ACTIVE and LIVE_STALE (41_liveness.md).
-/

namespace Sys2Proof.Machine

/-- LIVE_ACTIVE (R123): the indicator is driven active. -/
def execLiveActive (s : State) : Result := .next (driveIndicator true s)

/-- LIVE_STALE (R125): indicator inactive, then the block's own buffer cleared, then the blank presented. The cursor and the
timestamp keep their values (R127, R128). -/
def execLiveStale (s : State) : Result := .next (present .blank (memClear (driveIndicator false s)))

end Sys2Proof.Machine
end

