-- ==== Sys2Proof/Machine/Receive.lean ====
section
/-!
DEFINITION. The operations of the RX slot: ACCEPT_BYTE and NO_BYTE (40_receive.md). RxPoll has already popped the byte (R102).
-/

namespace Sys2Proof.Machine

/-- ACCEPT_BYTE (R102): the byte is written unchanged at the cursor (R104), the timestamp refreshed (R109), the count and the
frame-complete signal formed (R103), `rx_pop` raised. The cursor itself is written by the frame slot. -/
def execAcceptByte (d : Byte) (s : State) : Result :=
  match memWrite s (byteAddress s) d with
  | none => .fault (.noSuchAddress (byteAddress s))
  | some t =>
    .next (strobePop true
      (setCount (countAfterByte s) (completesFrame s.cfg (countAfterByte s)) (refreshTimestamp t)))

/-- NO_BYTE (R106): nothing but the count, the signal and the strobe. -/
def execNoByte (s : State) : Result :=
  .next (strobePop false (setCount (countAfterNoByte s) false s))

end Sys2Proof.Machine
end

