-- ==== Sys2Proof/Machine/Reset.lean ====
section
/-!
DEFINITION. RESET (70_reset_and_hazards.md).
-/

namespace Sys2Proof.Machine

/-- RESET (R190): the buffer blank, the cursor 0, the timestamp the time of this cycle (D7), the indicator at IND_AT_RESET (D8),
both strobes 0. No present is made (D10) and the transport's queue is not touched (D22). -/
def execReset (s : State) : Result :=
  .next (setCount s.n false
    (strobeFlush false (strobePop false
      (driveIndicator s.cfg.indAtReset (refreshTimestamp (setCursor 0 (memClear s)))))))

end Sys2Proof.Machine
end

