-- ==== Sys2Proof/Machine/Dispatch.lean ====
section
/-!
DEFINITION. The meaning of each operation (R77).
-/

namespace Sys2Proof.Machine

def exec (i : Instr) (s : State) : Host.Outcome State Fault Refusal :=
  match i with
  | .reset => Sys2Proof.Machine.execReset s
  | .acceptByte d => Sys2Proof.Machine.execAcceptByte d s
  | .noByte => Sys2Proof.Machine.execNoByte s
  | .liveActive => Sys2Proof.Machine.execLiveActive s
  | .liveStale => Sys2Proof.Machine.execLiveStale s
  | .frameNone => Sys2Proof.Machine.execFrameNone s
  | .frameComplete => Sys2Proof.Machine.execFrameComplete s

end Sys2Proof.Machine
end

