-- ==== Sys2Proof/Machine/Cycle.lean ====
section
/-!
DEFINITION. One core cycle (R150): the slots in the order RX, liveness, frame, each running the operation its selector word decodes
to; or RESET alone (R76). The block alone takes its RX word as an input; with the transport, the word is formed from the queue.
-/

namespace Sys2Proof.Machine

/-- The RX slot: it runs once, on the cycle's RX word (R101). -/
def rxSlot (w : RxWord) (s : State) : Result := exec (decodeRxw w) s

/-- The liveness slot: it runs whether or not a byte was accepted (R120). -/
def livenessSlot (s : State) : Result := exec (decodeLvs (lvsSelector s)) s

/-- The frame slot: FRAME_COMPLETE when the RX slot's signal stands, FRAME_NONE otherwise (R140). -/
def frameSlot (s : State) : Result := exec (decodeFcs (fcsSelector s)) s

/-- The three slots in order (R150), and the end of the cycle. -/
def runSlots (w : RxWord) (s : State) : Result :=
  Result.andThen (rxSlot w s) fun s1 =>
    Result.andThen (livenessSlot s1) fun s2 =>
      Result.andThen (frameSlot s2) fun s3 =>
        .next (closeCycle (recordIndicator s3))

/-- A core cycle of the block alone, on its input record (R71, R150): a reset cycle runs the operation the RST word selects and no
slot (R76); it adds nothing to the indicator trace (log 8). -/
def blockCycle (c : Cin) (s : State) : Result :=
  match decodeRst (rstSelector c) with
  | some i => Result.andThen (exec i (openCycle c.now s)) fun s1 => .next (closeCycle s1)
  | none => runSlots c.rxw (openCycle c.now s)

/-- The block's input record, formed from the transport's queue (R87, R150): in a reset cycle the queue is not touched and the RX
word is `{0, 0x00}`; otherwise the word is what RxPoll answers. -/
def formCin (i : CycleInput) (s : State) : Cin × State :=
  if i.rst then (⟨true, i.now, rxNone 0#8⟩, s)
  else (⟨false, i.now, (rxPoll i.bus s).1⟩, (rxPoll i.bus s).2)

/-- The arrivals before a cycle and the cycle itself, for an input record that is well typed (R87, R182). An ill-typed one is
refused (R73). -/
def inputCycle (i : CycleInput) (s : State) : Result :=
  if i.wellTyped s.cfg then
    let p := formCin i (arrive i.arrivals s)
    blockCycle p.1 p.2
  else .refused .illTypedInput

/-- The next core cycle of the machine (R150, R151): a configuration that R11 does not admit has no run. -/
def coreCycle (s : State) : Result :=
  if s.cfg.admitted then
    let p := takeInput s
    inputCycle p.1 p.2
  else .refused .inadmissibleConfig

/-! ## Placing an operation where the next cycle runs it (log 11) -/

/-- The input record of a quiet cycle: no arrival, `rst` 0, the time `t`. -/
def quietInput (t : Nat) (bus : Byte) : CycleInput := { arrivals := [], rst := false, now := t, bus := bus }

/-- Put `i` at the head of the schedule. -/
def scheduleFirst (i : CycleInput) (s : State) : State := { s with inputs := i :: s.inputs }

/-- Empty the transport, so that the next poll finds no byte. -/
def emptyTransport (s : State) : State := { s with rxq := [], held := [] }

/-- Put `b` at the head of the transport's queue, in place of the byte there. -/
def queueFirst (b : Byte) (s : State) : State := { s with rxq := b :: s.rxq.tail }

/-- Set all that makes the very next cycle run the operation: the input record, and where the operation needs it the queue, the
time or the cursor. `bus` is the data field of the RX word where no byte is available. -/
def placeInstr (i : Instr) (bus : Byte) (s : State) : State :=
  match i with
  | .reset => scheduleFirst { quietInput s.lastT 0#8 with rst := true } s
  | .acceptByte d => scheduleFirst (quietInput s.lastT 0#8) (queueFirst d s)
  | .noByte => scheduleFirst (quietInput s.lastT bus) (emptyTransport s)
  | .liveActive => scheduleFirst (quietInput s.lastT 0#8) (emptyTransport s)
  | .liveStale =>
    scheduleFirst (quietInput ((s.lastT + s.cfg.tMs + 1) % s.cfg.timeModulus) 0#8) (emptyTransport s)
  | .frameNone => scheduleFirst (quietInput s.lastT 0#8) (emptyTransport s)
  | .frameComplete => scheduleFirst (quietInput s.lastT 0#8) (queueFirst 0#8 (setCursor (s.cfg.frameBytes - 1) s))

end Sys2Proof.Machine
end

