-- ==== Sys2Proof/Machine/Step.lean ====
section
/-!
DEFINITION. One step is one core cycle (R16, D2), and the placing of an operation's word where the next step fetches it.
-/

namespace Sys2Proof.Machine

/-- One core cycle (R150). -/
def step (s : State) : Host.Outcome State Fault Refusal := coreCycle s

/-- `s` with the operation of the word `w` placed where the next step fetches it; an RX word's data field is laid on `rx_data`
where no byte is available. A word the decoder refuses changes nothing (log 11). -/
def State.withFetchWord (s : State) (nbits w : Nat) : State :=
  match decodeTableWord nbits w with
  | none => s
  | some i => placeInstr i (BitVec.ofNat 8 w) s

end Sys2Proof.Machine
end

