-- ==== Sys2Proof/Machine/Ports.lean ====
section
/-!
DEFINITION. The ports of R70 as they read at a core-cycle boundary, and the encodings of the outputs (R78, R79). The handshake
`pres_req` / `pres_done` and `clk` are not modelled (R70, log 13).
-/

namespace Sys2Proof.Machine

/-- `rx_valid`: the transport's queue is not empty (R70). -/
def rxValidPort (s : State) : Bool := !s.rxq.isEmpty

/-- `rx_data`: the head of the queue, or whatever the bus carries while the queue is empty (R70). -/
def rxDataPort (bus : Byte) (s : State) : Byte := s.rxq.headD bus

/-- The level that is not the given one. -/
def otherLevel : Level → Level
  | .low => .high
  | .high => .low

/-- `ind_pin`: IND_ACTIVE_LEVEL while `ind` is active, the other level otherwise (R79). -/
def indPin (s : State) : Level := if s.ind then s.cfg.indActiveLevel else otherLevel s.cfg.indActiveLevel

/-- `pres_kind`: FRAME is 0, BLANK is 1 (R78). -/
def presKindCode : PresentKind → Selector
  | .frame => 0#1
  | .blank => 1#1

/-- `pres_byte` for a `pres_addr`: the Display Driver's read-only view of the frame buffer (R70, R154). -/
def presByte (s : State) (a : Nat) : Option Byte := memRead s a

/-- What the display is taken to show: the snapshot of the last present, if there was one (R34, D25). -/
def displayed (s : State) : Option (List Byte) := s.presents.getLast?.map Present.snap

end Sys2Proof.Machine
end

