-- ==== Sys2Proof/Machine/Script.lean ====
section
/-!
DEFINITION. The stimulus script of R85 to R88: its statements, the text they are read from, the expansion of the pseudo-statements,
what a script does to the machine, and its listing of input records. A script drives the inputs; it is no part of the block (D17,
log 17).
-/

namespace Sys2Proof.Machine

/-- The statements of R85 and the pseudo-statements of R86. -/
inductive Stmt where
  | config (w h t timeW : Nat) (depth : Option Nat)
  | reset (t : Nat)
  | arrive (bs : List Byte)
  | cycle (t : Nat)
  | rx (b : Byte) (t : Nat)
  | idle (t : Nat)
  | frame (t0 d : Nat) (bs : List Byte)
  | wait (t1 t2 d : Nat)
deriving DecidableEq, Repr

/-! ## Expansion (R86) -/

/-- `RX <bi> now=<t0 + i·d>` for the bytes from index `i` on, times taken mod 2^TIME_W. -/
def expandFrame (c : Config) (t0 d : Nat) : Nat → List Byte → List Stmt
  | _, [] => []
  | i, b :: bs => .arrive [b] :: .cycle ((t0 + i * d) % c.timeModulus) :: expandFrame c t0 d (i + 1) bs

/-- The expansion of a statement into statements of R85. A FRAME of other than F bytes and a WAIT of step 0 have none. -/
def expandStmt (c : Config) : Stmt → Option (List Stmt)
  | .config w h t tw d => some [.config w h t tw d]
  | .reset t => some [.reset t]
  | .arrive bs => some [.arrive bs]
  | .cycle t => some [.cycle t]
  | .rx b t => some [.arrive [b], .cycle t]
  | .idle t => some [.cycle t]
  | .frame t0 d bs => if bs.length = c.frameBytes then some (expandFrame c t0 d 0 bs) else none
  | .wait t1 t2 d =>
    if d = 0 then none
    else if t2 < t1 then some []
    else some ((List.range ((t2 - t1) / d + 1)).map fun k => .cycle (t1 + k * d))

/-- The expansion of a list of statements. -/
def expandAll (c : Config) : List Stmt → Option (List Stmt)
  | [] => some []
  | x :: xs =>
    match expandStmt c x, expandAll c xs with
    | some ys, some zs => some (ys ++ zs)
    | _, _ => none

/-! ## Semantics (R87) -/

/-- The input records of a list of statements, given the bytes that have arrived since the last cycle; and the bytes that arrive
after the last cycle. A further CONFIG, or a pseudo-statement left unexpanded, has no records. -/
def compileStmts : List Byte → List Stmt → Option (List CycleInput × List Byte)
  | acc, [] => some ([], acc)
  | acc, .arrive bs :: xs => compileStmts (acc ++ bs) xs
  | acc, .cycle t :: xs =>
    (compileStmts [] xs).map fun p => ({ arrivals := acc, rst := false, now := t, bus := 0#8 } :: p.1, p.2)
  | acc, .reset t :: xs =>
    (compileStmts [] xs).map fun p => ({ arrivals := acc, rst := true, now := t, bus := 0#8 } :: p.1, p.2)
  | _, .config _ _ _ _ _ :: _ => none
  | _, .rx _ _ :: _ => none
  | _, .idle _ :: _ => none
  | _, .frame _ _ _ :: _ => none
  | _, .wait _ _ _ :: _ => none

/-- The configuration a CONFIG line gives; what the line does not name is taken from `base`. -/
def configOf (base : Config) (w h t timeW : Nat) (depth : Option Nat) : Config :=
  { base with gridW := w, gridH := h, tMs := t, timeW := timeW, rxqDepth := depth.getD base.rxqDepth }

/-- A script loaded: the machine with the script's input records scheduled, and the bytes that arrive after its last cycle. A
script must begin with CONFIG and then RESET (R85). -/
def loadScript (base : Config) : List Stmt → Option (State × List Byte)
  | .config w h t tw d :: .reset t0 :: xs =>
    let c := configOf base w h t tw d
    match expandAll c xs with
    | none => none
    | some ys =>
      (compileStmts [] (.reset t0 :: ys)).map fun p =>
        ({ State.reset with cfg := c, ind := c.indAtReset, inputs := p.1 }, p.2)
  | _ => none

/-- Run a script to its end (R87). The bytes of a trailing ARRIVE arrive after the last cycle; there bytes that the sender holds back
under Stall are offered once more, with or without a trailing ARRIVE (DESIGN CHOICE: the spec does not say when they enter the
queue; logs 7 and 17). -/
def runScript (base : Config) (xs : List Stmt) : Option Result :=
  (loadScript base xs).map fun p =>
    Result.andThen (Host.Core.run Sys2Proof.core p.1.inputs.length p.1) fun s => .next (arrive p.2 s)

/-! ## The listing (R88) -/

/-- The input record of the next cycle of a state. -/
def nextCin (s : State) : Cin :=
  let p := takeInput s
  (formCin p.1 (arrive p.1.arrivals p.2)).1

/-- The input records of the next `k` cycles, as far as they run; a record that the step refuses is the last (DESIGN CHOICE,
log 17). -/
def cinsOf : Nat → State → List Cin
  | 0, _ => []
  | k + 1, s =>
    nextCin s ::
      match step s with
      | .next t => cinsOf k t
      | .fault _ => []
      | .refused _ => []

/-- One hexadecimal digit. -/
def hexDigit (n : Nat) : Char := "0123456789ABCDEF".toList.getD (n % 16) '0'

/-- The `k` low hexadecimal digits of a number, most significant first. -/
def hexDigits : Nat → Nat → List Char
  | 0, _ => []
  | k + 1, n => hexDigits k (n / 16) ++ [hexDigit n]

/-- A record as `rst now rxw`, `now` in as many digits as TIME_W bits take and `rxw` in three. Of a time that does not fit in them,
whose record the step refuses, only the low digits are written (DESIGN CHOICE: R88 does not say how such a record is listed;
log 17). -/
def renderCin (c : Config) (r : Cin) : List Char :=
  (if r.rst then ['1'] else ['0']) ++ [' ', '0', 'x'] ++ hexDigits ((c.timeW + 3) / 4) r.now ++ [' ', '0', 'x'] ++
    hexDigits 3 r.rxw.toNat

/-- The listing of a script: one line for each CYCLE or RESET. -/
def listScript (base : Config) (xs : List Stmt) : Option (List (List Char)) :=
  (loadScript base xs).map fun p => (cinsOf p.1.inputs.length p.1).map (renderCin p.1.cfg)

/-! ## The text (R85) -/

/-- Split at each occurrence of a character. -/
def splitChars (c : Char) : List Char → List (List Char)
  | [] => [[]]
  | x :: xs =>
    match splitChars c xs with
    | [] => [[x]]
    | l :: ls => if x = c then [] :: l :: ls else (x :: l) :: ls

/-- A line without its comment: everything before the first `;`. -/
def stripComment : List Char → List Char
  | [] => []
  | x :: xs => if x = ';' then [] else x :: stripComment xs

/-- The words of a line. -/
def wordsOf (l : List Char) : List (List Char) :=
  (splitChars ' ' (l.map fun x => if x = '\t' || x = '\r' then ' ' else x)).filter fun w => !w.isEmpty

/-- The value of a digit of the given base. -/
def digitOf (base : Nat) (x : Char) : Option Nat :=
  let n := x.toNat
  let v := if 48 ≤ n && n ≤ 57 then n - 48 else if 65 ≤ n && n ≤ 70 then n - 55 else if 97 ≤ n && n ≤ 102 then n - 87 else base
  if v < base then some v else none

/-- The value of a row of digits, with the value of the digits before it. -/
def digitsOf (base : Nat) : Nat → List Char → Option Nat
  | acc, [] => some acc
  | acc, x :: xs =>
    match digitOf base x with
    | some v => digitsOf base (acc * base + v) xs
    | none => none

/-- A number: decimal, or hexadecimal after `0x`. -/
def numberOf : List Char → Option Nat
  | [] => none
  | '0' :: 'x' :: [] => none
  | '0' :: 'x' :: xs => digitsOf 16 0 xs
  | xs => digitsOf 10 0 xs

/-- A byte. -/
def byteOf (xs : List Char) : Option Byte :=
  match numberOf xs with
  | some n => if n < 256 then some (BitVec.ofNat 8 n) else none
  | none => none

/-- Bytes. -/
def bytesOf : List (List Char) → Option (List Byte)
  | [] => some []
  | w :: ws =>
    match byteOf w, bytesOf ws with
    | some b, some bs => some (b :: bs)
    | _, _ => none

/-- The number in a word `<key>=<number>`. -/
def valueOf (key : List Char) (w : List Char) : Option Nat :=
  match splitChars '=' w with
  | [k, v] => if k = key then numberOf v else none
  | _ => none

/-- One statement of a script, from its words: the statement's name and what follows it. -/
def stmtOf (name : List Char) (args : List (List Char)) : Option Stmt :=
  if name = "CONFIG".toList then
    match args with
    | w :: h :: t :: tw :: rest =>
      match valueOf ['W'] w, valueOf ['H'] h, valueOf ['T'] t, valueOf "TIME_W".toList tw, rest with
      | some w, some h, some t, some tw, [] => some (.config w h t tw none)
      | some w, some h, some t, some tw, [d] => (valueOf "RXQ_DEPTH".toList d).map fun d => .config w h t tw (some d)
      | _, _, _, _, _ => none
    | _ => none
  else if name = "RESET".toList then
    match args with
    | [t] => (valueOf "now".toList t).map .reset
    | _ => none
  else if name = "ARRIVE".toList then
    match bytesOf args with
    | some (b :: bs) => some (.arrive (b :: bs))
    | _ => none
  else if name = "CYCLE".toList then
    match args with
    | [t] => (valueOf "now".toList t).map .cycle
    | _ => none
  else if name = "RX".toList then
    match args with
    | [b, t] =>
      match byteOf b, valueOf "now".toList t with
      | some b, some t => some (.rx b t)
      | _, _ => none
    | _ => none
  else if name = "IDLE".toList then
    match args with
    | [t] => (valueOf "now".toList t).map .idle
    | _ => none
  else if name = "FRAME".toList then
    match args with
    | t :: d :: bs =>
      match valueOf "now".toList t, valueOf "step".toList d, bytesOf bs with
      | some t, some d, some bs => some (.frame t d bs)
      | _, _, _ => none
    | _ => none
  else if name = "WAIT".toList then
    match args with
    | [a, b, d] =>
      match valueOf "from".toList a, valueOf "to".toList b, valueOf "step".toList d with
      | some a, some b, some d => some (.wait a b d)
      | _, _, _ => none
    | _ => none
  else none

/-- The statements of lines; a line that holds no word is skipped. -/
def stmtsOf : List (List Char) → Option (List Stmt)
  | [] => some []
  | l :: ls =>
    match wordsOf (stripComment l), stmtsOf ls with
    | [], r => r
    | w :: ws, some xs => (stmtOf w ws).map fun x => x :: xs
    | _ :: _, none => none

/-- The statements of a script's text (R85). -/
def parseScript (text : List Char) : Option (List Stmt) := stmtsOf (splitChars '\n' text)

end Sys2Proof.Machine
end

