-- ==== Sys2Proof/Safety.lean ====
section
/-!
DEFINITION. What holds at every core-cycle boundary of a run, and the premises on the environment that statements take (R182).
-/

namespace Sys2Proof.Machine

/-- A present event as R78 and R145 have it: F bytes, a TIME_W-bit time, and for a BLANK all bytes 0. -/
def Present.wf (c : Config) (p : Present) : Bool :=
  decide (p.snap.length = c.frameBytes) && decide (p.t < c.timeModulus) &&
    (decide (p.kind = .frame) || decide (p.snap = List.replicate c.frameBytes 0#8))

/-- The invariant of the machine at core-cycle boundaries. -/
structure BoundaryInv (s : State) : Prop where
  /-- R11: only admitted configurations have runs. -/
  admitted : s.cfg.admitted = true
  /-- The frame buffer is in canonical form and holds no address outside `[0, F)` (R50, R59). -/
  bufferWf : Memory.wf s.cfg.frameBytes s.fb = true
  /-- R22: the cursor is below F. -/
  cursorInRange : s.cursor < s.cfg.frameBytes
  /-- R24: the timestamp is a TIME_W-bit value. -/
  timestampInRange : s.lastT < s.cfg.timeModulus
  /-- R32: the queue is at most RXQ_DEPTH long. -/
  queueInDepth : s.rxq.length ≤ s.cfg.rxqDepth
  /-- D13: only under Stall does the sender hold bytes back. -/
  heldOnlyUnderStall : s.cfg.rxqOverflow ≠ .stall → s.held = []
  /-- R28: the phase is ACCUMULATING. -/
  accumulating : s.phase = .accumulating
  /-- R20: no value local to a cycle lasts. -/
  noLocals : s.now = 0 ∧ s.n = 0
  /-- R80, R152: a flush strobe stands with a pop strobe, and the cycle left cursor and queue empty. -/
  flushAfterCompletion : s.rxFlush = true → s.rxPop = true ∧ s.cursor = 0 ∧ s.rxq = []
  /-- R122: a cycle that popped a byte left the indicator active. -/
  popMeansActive : s.rxPop = true → s.ind = true
  /-- R78, R145: every present of the log has F bytes and a time, and a BLANK is all zeros. -/
  presentsWf : ∀ p ∈ s.presents, Present.wf s.cfg p = true

/-- The input record of the next cycle. -/
def nextInput (s : State) : CycleInput := (takeInput s).1

/-- The state after the arrivals before the next cycle, at the start of that cycle. -/
def arrived (s : State) : State := arrive (nextInput s).arrivals (takeInput s).2

/-- The next cycle's input record is well typed (R73). -/
def nextTyped (s : State) : Prop := (nextInput s).wellTyped s.cfg = true

/-- The next cycle is a reset cycle (R76). -/
def resets (s : State) : Bool := (nextInput s).rst

/-- The next cycle's RX slot finds a byte (R100). -/
def accepts (s : State) : Bool := !resets s && !(arrived s).rxq.isEmpty

/-- The next cycle's RX slot finds a byte, and it is the last of the frame (R75). -/
def completes (s : State) : Bool := accepts s && s.cursor + 1 == s.cfg.frameBytes

/-- The timestamp the next cycle's liveness slot sees (R26): the cycle's own time if a byte is accepted. -/
def timestampSeen (s : State) : Nat := if accepts s then (nextInput s).now else s.lastT

/-- In the next cycle the link is stale (R121). -/
def staleNext (s : State) : Bool := !resets s && staleAt s.cfg (nextInput s).now (timestampSeen s)

/-- Every scheduled input record is well typed (R73). -/
def scheduleTyped (s : State) : Prop := ∀ i ∈ s.inputs, CycleInput.wellTyped s.cfg i = true

/-- The bytes that arrive in a stretch of cycles, in order. -/
def arrivedBytes (is : List CycleInput) : List Byte := is.flatMap CycleInput.arrivals

/-- The bytes on their way to the block, in the order sent: those queued, then those the sender holds back. -/
def waiting (s : State) : List Byte := s.rxq ++ s.held

/-- A calm stretch of cycles, from the timestamp `last` on and with `w` bytes waiting: no reset, well-typed times, no byte lost (each
finds room in the queue, or is held back under Stall), and no cycle without a byte in which the link is stale. -/
def calm (c : Config) : Nat → Nat → List CycleInput → Bool
  | _, _, [] => true
  | last, w, i :: is =>
    !i.rst && i.wellTyped c && (decide (c.rxqOverflow = .stall) || decide (w + i.arrivals.length ≤ c.rxqDepth)) &&
      if w + i.arrivals.length = 0 then !staleAt c i.now last && calm c last 0 is
      else calm c i.now (w + i.arrivals.length - 1) is

/-- How many cycles of a stretch find a byte, with `w` bytes waiting at its start (R101: one byte a cycle at most). -/
def taken : Nat → List CycleInput → Nat
  | _, [] => 0
  | w, i :: is =>
    if w + i.arrivals.length = 0 then taken 0 is else taken (w + i.arrivals.length - 1) is + 1

/-- A silent stretch: no reset, well-typed times, no byte, and the link stale in every cycle, from the timestamp `last` on. -/
def silentStale (c : Config) (last : Nat) (is : List CycleInput) : Bool :=
  is.all fun i => !i.rst && i.wellTyped c && i.arrivals.isEmpty && staleAt c i.now last

end Sys2Proof.Machine
end

