-- ==== Sys2Proof/Certificates/Slice0/Obligations.lean ====
section
/-!
DEFINITION. The statements for the provers. Each docstring names the rule a statement formalises, or says that it is derived and
from what.
-/

open Sys2Proof Sys2Proof.Machine

/-! ## Selectors and encodings -/

/-- Derived from R77: words written out from the opcode map decode to the operation of their row. -/
def Obligations.SelectorWordsDecode : Prop :=
  decode (.rst 0b1#1) = .ok .reset ∧
  decode (.rxw 0b110100101#9) = .ok (.acceptByte 0xA5#8) ∧
  decode (.rxw 0b100000000#9) = .ok (.acceptByte 0x00#8) ∧
  decode (.rxw 0b000000000#9) = .ok .noByte ∧
  decode (.rxw 0b011111111#9) = .ok .noByte ∧
  decode (.lvs 0b0#1) = .ok .liveActive ∧
  decode (.lvs 0b1#1) = .ok .liveStale ∧
  decode (.fcs 0b0#1) = .ok .frameNone ∧
  decode (.fcs 0b1#1) = .ok .frameComplete

/-- Derived from R77: decoding the encoding of any operation gives the operation back. The half about bytes rests on the layout of
a word in bytes, which is the model's choice (log 11). -/
def Obligations.EncodeDecodeRoundTrip : Prop :=
  ∀ i : Instr, decode (encode i) = .ok i ∧ decodeBytes i.format (encodeBytes i) = .ok i

/-- R72: the RX word is the valid bit 8 above the data bits 7 to 0; `{1, b}` is read as the byte b, `{0, d}` as no byte, and there
is no other RX word. -/
def Obligations.RxWordEncodesOptionalByte : Prop :=
  (∀ b : Byte, (rxSome b).toNat = 256 + b.toNat ∧ decode (.rxw (rxSome b)) = .ok (.acceptByte b)) ∧
  (∀ d : Byte, (rxNone d).toNat = d.toNat ∧ decode (.rxw (rxNone d)) = .ok .noByte) ∧
  ∀ w : RxWord, (∃ b, w = rxSome b) ∨ ∃ d, w = rxNone d

/-- Derived from R77 and R82: whatever bytes decode to an operation are a word of its format that shows the selecting bits of its
row, and the word of ACCEPT_BYTE holds its data byte. That a word takes whole bytes, the least significant first, with zeros above
the format's width, is the model's choice (log 11). -/
def Obligations.DecodedBytesShowTheRow : Prop :=
  ∀ (f : Format) (bs : List Byte) (i : Instr), decodeBytes f bs = .ok i →
    f = i.format ∧ bs.length = f.byteCount ∧ natOfBytes bs < 2 ^ f.width ∧
    natOfBytes bs &&& i.tableMask = i.tableMatch ∧
    ∀ d, i = .acceptByte d → natOfBytes bs = 256 + d.toNat

/-! ## Parameters, addresses, time -/

/-- R51: the address and the pair (pixel, channel) name each other, and ACCEPT_BYTE writes at the cursor, which is the address of
the cursor's pixel and channel. -/
def Obligations.AddressNamesPixelAndChannel : Prop :=
  (∀ (c : Config) (a : Nat), a < c.frameBytes →
    pixelIndex a < c.pixels ∧ channelIndex a < 3 ∧ 3 * pixelIndex a + channelIndex a = a) ∧
  (∀ (c : Config) (k ch : Nat), k < c.pixels → ch < 3 →
    addressOf k ch = 3 * k + ch ∧ addressOf k ch < c.frameBytes ∧ pixelIndex (addressOf k ch) = k ∧
      channelIndex (addressOf k ch) = ch) ∧
  ∀ (d : Byte) (s : State), Memory.wf s.cfg.frameBytes s.fb = true → s.cursor < s.cfg.frameBytes →
    byteAddress s = s.cursor ∧
    ∃ t, exec (.acceptByte d) s = .next t ∧ Memory.read t.fb s.cursor = d ∧
      Memory.read t.fb (addressOf (pixelIndex s.cursor) (channelIndex s.cursor)) = d

/-- Derived, as the spec's rule R12 marks it, from R10 and R9: F is a multiple of 3 and no power of two, so F fits in CURSOR_W
bits, and the increment of a cursor below F is exact in them. -/
def Obligations.CursorWidthHoldsF : Prop :=
  ∀ c : Config, 1 ≤ c.gridW → 1 ≤ c.gridH →
    c.frameBytes % 3 = 0 ∧ (∀ k, c.frameBytes ≠ 2 ^ k) ∧
    c.frameBytes ≤ 2 ^ c.cursorW - 1 ∧ 2 ^ (c.cursorW - 1) < c.frameBytes ∧
    ∀ cur, cur < c.frameBytes → (BitVec.ofNat c.cursorW cur + 1#c.cursorW).toNat = cur + 1

/-- R121 and R74: the elapsed time is the difference modulo 2^TIME_W, the link is stale when it exceeds T_MS, and the liveness
selector is then 1, which chooses LIVE_STALE, and otherwise 0, which chooses LIVE_ACTIVE. -/
def Obligations.ElapsedIsModularAndSelects : Prop :=
  (∀ w now last : Nat, now < 2 ^ w → last < 2 ^ w →
    elapsed w now last = (now + (2 ^ w - last)) % 2 ^ w ∧ elapsed w now last < 2 ^ w) ∧
  ∀ s : State,
    lvsSelector s = (if s.cfg.tMs < elapsed s.cfg.timeW s.now s.lastT then 1#1 else 0#1) ∧
    decode (.lvs (lvsSelector s)) =
      .ok (if s.cfg.tMs < elapsed s.cfg.timeW s.now s.lastT then .liveStale else .liveActive)

/-- Derived from R130: after a silence of D ms the elapsed time reads D mod 2^TIME_W, so a silence a few ms longer than a multiple
of 2^TIME_W reads active. -/
def Obligations.SilenceReadsModuloWrap : Prop :=
  ∀ (c : Config) (last D : Nat), last < c.timeModulus →
    elapsed c.timeW ((last + D) % c.timeModulus) last = D % c.timeModulus ∧
    ∀ k r, D = k * c.timeModulus + r → r ≤ c.tMs → staleAt c ((last + D) % c.timeModulus) last = false

/-- Derived from R129: an elapsed time of T_MS is active and one of T_MS + 1 is stale, across the wrap too; and without a wrap the
link is stale from `last + T_MS + 1` on and not before. -/
def Obligations.ThresholdIsStrict : Prop :=
  ∀ (c : Config) (last : Nat), c.admitted = true → last < c.timeModulus →
    staleAt c ((last + c.tMs) % c.timeModulus) last = false ∧
    staleAt c ((last + c.tMs + 1) % c.timeModulus) last = true ∧
    ∀ now, last ≤ now → now < c.timeModulus → (staleAt c now last = true ↔ last + c.tMs + 1 ≤ now)

/-! ## The operations -/

/-- R102 and R104: every RX word `{1, d}` is ACCEPT_BYTE's; ACCEPT_BYTE stores its byte unchanged at the cursor and leaves every
other byte; it refreshes the timestamp, forms n and the frame-complete signal and raises `rx_pop`; nothing else changes. -/
def Obligations.AcceptByteStoresAtCursor : Prop :=
  (∀ w : RxWord, w &&& 0x100#9 = 0x100#9 → decode (.rxw w) = .ok (.acceptByte (rxData w))) ∧
  ∀ (d : Byte) (s : State), Memory.wf s.cfg.frameBytes s.fb = true → s.cursor < s.cfg.frameBytes →
    ∃ m, exec (.acceptByte d) s =
        .next { s with fb := m, lastT := s.now, n := s.cursor + 1,
                       complete := decide (s.cursor + 1 = s.cfg.frameBytes), rxPop := true } ∧
      Memory.wf s.cfg.frameBytes m = true ∧ Memory.read m (byteAddress s) = d ∧
      ∀ a, a ≠ byteAddress s → Memory.read m a = Memory.read s.fb a

/-- Derived from R52 and R59, the model's choice (log 9): with the cursor outside the buffer, a state no run reaches, ACCEPT_BYTE
stops with a fault. -/
def Obligations.AcceptByteOutsideBufferFaults : Prop :=
  ∀ (d : Byte) (s : State), s.cfg.frameBytes ≤ s.cursor →
    exec (.acceptByte d) s = .fault (.noSuchAddress (byteAddress s))

/-- R106: every RX word `{0, d}` is NO_BYTE's; NO_BYTE writes the count, the signal and the strobe, and nothing else. -/
def Obligations.NoByteKeepsTheBlock : Prop :=
  (∀ w : RxWord, w &&& 0x100#9 = 0x000#9 → decode (.rxw w) = .ok .noByte) ∧
  ∀ s : State, exec .noByte s = .next { s with n := s.cursor, complete := false, rxPop := false }

/-- R123: the LVS word 0 is LIVE_ACTIVE's; LIVE_ACTIVE drives the indicator active, and nothing else changes. -/
def Obligations.LiveActiveDrivesIndicator : Prop :=
  decode (.lvs 0#1) = .ok .liveActive ∧
  ∀ s : State, exec .liveActive s = .next { s with ind := true }

/-- R125: the LVS word 1 is LIVE_STALE's; LIVE_STALE drives the indicator inactive, sets every byte of the buffer to 0 and
presents F zeros as BLANK at the cycle's time; cursor, timestamp and all else stay. -/
def Obligations.LiveStaleBlanksAndPresents : Prop :=
  decode (.lvs 1#1) = .ok .liveStale ∧
  ∀ s : State,
    ∃ m, exec .liveStale s =
        .next { s with ind := false, fb := m,
                       presents := s.presents ++ [⟨.blank, List.replicate s.cfg.frameBytes 0#8, s.now⟩] } ∧
      ∀ a, Memory.read m a = 0#8

/-- R141: the FCS word 0 is FRAME_NONE's; FRAME_NONE writes the count n to the cursor and lowers `rx_flush`; nothing else
changes. -/
def Obligations.FrameNoneStoresCount : Prop :=
  decode (.fcs 0#1) = .ok .frameNone ∧
  ∀ s : State, exec .frameNone s = .next { s with cursor := s.n, rxFlush := false }

/-- R142: the FCS word 1 is FRAME_COMPLETE's; FRAME_COMPLETE presents all F bytes as FRAME at the cycle's time, sets the cursor to
0, drains the queue, raises `rx_flush` and ends the phase PRESENTING; the buffer and all else stay. -/
def Obligations.FrameCompletePresentsResetsDrains : Prop :=
  decode (.fcs 1#1) = .ok .frameComplete ∧
  ∀ s : State,
    ∃ snap, exec .frameComplete s =
        .next { s with presents := s.presents ++ [⟨.frame, snap, s.now⟩], cursor := 0, rxq := [], rxFlush := true,
                       complete := false } ∧
      snap.length = s.cfg.frameBytes ∧ ∀ a, a < s.cfg.frameBytes → snap[a]? = some (Memory.read s.fb a)

/-- R190: the RST word 1 is RESET's; RESET sets every byte to 0, the cursor to 0, the timestamp to the cycle's time, the indicator
to IND_AT_RESET and both strobes to 0, in the phase ACCUMULATING; the queue, the present log and all else stay. -/
def Obligations.ResetInitialisesTheBlock : Prop :=
  decode (.rst 1#1) = .ok .reset ∧
  ∀ s : State,
    ∃ m, exec .reset s =
        .next { s with fb := m, cursor := 0, lastT := s.now, ind := s.cfg.indAtReset, rxPop := false, rxFlush := false,
                       complete := false } ∧
      ∀ a, Memory.read m a = 0#8

/-- Derived from R145 and R53: a present takes the F bytes of the buffer with the kind and the time, appends them to the present
log, and changes no other state. -/
def Obligations.PresentTakesASnapshot : Prop :=
  ∀ (kind : PresentKind) (s : State),
    ∃ snap, present kind s = { s with presents := s.presents ++ [⟨kind, snap, s.now⟩] } ∧
      snap.length = s.cfg.frameBytes ∧ ∀ a, a < s.cfg.frameBytes → snap[a]? = some (Memory.read s.fb a)

/-- R100: RxPoll answers the head of the queue and removes it; of an empty queue it answers no byte and leaves the queue. -/
def Obligations.PollTakesTheHead : Prop :=
  (∀ (bus b : Byte) (q : List Byte) (s : State), s.rxq = b :: q →
    rxPoll bus s = (rxSome b, { s with rxq := q })) ∧
  ∀ (bus : Byte) (s : State), s.rxq = [] → (rxPoll bus s).2 = s ∧ rxValid (rxPoll bus s).1 = false

/-- R79: the pin is at IND_ACTIVE_LEVEL when `ind` is active, and at the other level when it is not. -/
def Obligations.PinFollowsIndicator : Prop :=
  ∀ s : State, (s.ind = true → indPin s = s.cfg.indActiveLevel) ∧ (s.ind = false → indPin s ≠ s.cfg.indActiveLevel)

/-! ## The core cycle -/

/-- Derived from R150, R76, R101, R120 and R140, and from the model's choices of logs 4, 5, 6 and 8: a step takes the next input
record, lets its bytes arrive, and runs the operations its words decode to: RESET alone, or the RX, liveness and frame operation
in this order, each on the state the one before left; then the values local to the cycle are cleared and, in a running cycle, the
indicator trace gains the level. -/
def Obligations.StepRunsTheDecodedOperations : Prop :=
  ∀ s : State, s.cfg.admitted = true → nextTyped s →
    (resets s = true →
      decode (.rst 1#1) = .ok .reset ∧
      step s = Result.andThen (exec .reset (openCycle (nextInput s).now (arrived s))) fun t => .next (closeCycle t)) ∧
    (resets s = false →
      ∃ w s1, rxPoll (nextInput s).bus (arrived s) = (w, s1) ∧
        ∃ i, decode (.rxw w) = .ok i ∧
          step s =
            Result.andThen (exec i (openCycle (nextInput s).now s1)) fun s2 =>
              Result.andThen (exec (decodeLvs (lvsSelector s2)) s2) fun s3 =>
                Result.andThen (exec (decodeFcs (fcsSelector s3)) s3) fun s4 =>
                  .next (closeCycle (recordIndicator s4)))

/-- R75: after the RX slot the frame selector is 1 exactly when a byte was accepted and the cursor at the start of the cycle plus
one is F, a sum that CURSOR_W bits hold without overflow; 1 selects FRAME_COMPLETE and 0 FRAME_NONE. -/
def Obligations.FrameSelectorIsLastByte : Prop :=
  ∀ (w : RxWord) (s : State), s.cursor < s.cfg.frameBytes →
    (BitVec.ofNat s.cfg.cursorW s.cursor + 1#s.cfg.cursorW).toNat = s.cursor + 1 ∧
    ∃ s1 s2, rxSlot w s = .next s1 ∧ livenessSlot s1 = .next s2 ∧
      fcsSelector s2 = (if rxValid w = true ∧ s.cursor + 1 = s.cfg.frameBytes then 1#1 else 0#1) ∧
      decode (.fcs (fcsSelector s2)) =
        .ok (if rxValid w = true ∧ s.cursor + 1 = s.cfg.frameBytes then .frameComplete else .frameNone)

/-- Derived from R77: from every state with the cursor in range, on every RX word, the three slots run and show one of the four
selector combinations that can occur. -/
def Obligations.OnlyFourSelectorCombinations : Prop :=
  ∀ (w : RxWord) (s : State), s.cursor < s.cfg.frameBytes →
    ∃ s1 s2 s3, rxSlot w s = .next s1 ∧ livenessSlot s1 = .next s2 ∧ frameSlot s2 = .next s3 ∧
      reachableSelectors (rxValid w) (decide (lvsSelector s1 = 1#1)) (decide (fcsSelector s2 = 1#1)) = true

/-- Derived, as the spec's rules R122 and R152 mark it, from R109, R121 and R75: in the cycle of an accepted byte the timestamp is
the cycle's time, the elapsed time 0, and the liveness slot is LIVE_ACTIVE; and in no cycle are LIVE_STALE and FRAME_COMPLETE both
selected. -/
def Obligations.AcceptedByteIsNeverStale : Prop :=
  (∀ (w : RxWord) (s : State), s.cursor < s.cfg.frameBytes → rxValid w = true →
    ∃ s1, rxSlot w s = .next s1 ∧ s1.lastT = s.now ∧ elapsed s1.cfg.timeW s1.now s1.lastT = 0 ∧
      isStale s1 = false ∧ livenessSlot s1 = exec .liveActive s1) ∧
  ∀ (w : RxWord) (s : State), s.cursor < s.cfg.frameBytes →
    ∃ s1 s2, rxSlot w s = .next s1 ∧ livenessSlot s1 = .next s2 ∧ ¬ (lvsSelector s1 = 1#1 ∧ fcsSelector s2 = 1#1)

/-- R11: the admitted configurations are those of the five bounds, in each of them some elapsed time is stale, while at a
threshold of 2^TIME_W − 1 none is; and a machine of any other configuration gets no run. -/
def Obligations.OnlyAdmittedConfigurationsRun : Prop :=
  (∀ c : Config, c.admitted = true ↔
    1 ≤ c.gridW ∧ 1 ≤ c.gridH ∧ 1 ≤ c.timeW ∧ c.tMs ≤ 2 ^ c.timeW - 2 ∧ 1 ≤ c.rxqDepth) ∧
  (∀ c : Config, c.admitted = true → ∃ now, now < 2 ^ c.timeW ∧ staleAt c now 0 = true) ∧
  (∀ c : Config, c.tMs = 2 ^ c.timeW - 1 → ∀ now last, staleAt c now last = false) ∧
  ∀ s : State, s.cfg.admitted = false → step s = .refused .inadmissibleConfig

/-- R73: what `rx_data` carries while no byte is available changes nothing; a machine at a boundary refuses no well-typed record;
an ill-typed record is refused. -/
def Obligations.InputsAdmittedAndBusIgnored : Prop :=
  (∀ (s : State) (i : CycleInput) (d : Byte) (is : List CycleInput),
    step { s with inputs := { i with bus := d } :: is } = step { s with inputs := i :: is }) ∧
  (∀ s : State, BoundaryInv s → nextTyped s → ∃ t, step s = .next t) ∧
  ∀ (s : State) (i : CycleInput) (is : List CycleInput), s.cfg.admitted = true → s.inputs = i :: is →
    2 ^ s.cfg.timeW ≤ i.now → step s = .refused .illTypedInput

/-- Derived from R20, R22, R24, R28, R32, R78 and R145, and from the model's choices of logs 4, 7, 9 and 19: every step keeps the
invariant of a core-cycle boundary. -/
def Obligations.StepKeepsInvariant : Prop :=
  ∀ s t : State, BoundaryInv s → step s = .next t → BoundaryInv t

/-- Derived from R192; the values of logs 1, 2, 3 and 12 are the model's: the state after reset meets the invariant. -/
def Obligations.ResetMeetsInvariant : Prop := BoundaryInv State.reset

/-- Derived, as the spec's rule R151 marks it, from R150 and R73: for every admitted configuration and every state with `cursor <
F`, a cycle gives a next state, again with `cursor < F`; no input makes it fault, stick or refuse. The schedule stays well typed,
so the claim holds of the next cycle too, and where nothing is scheduled the free values of the environment are admitted inputs
(log 5). -/
def Obligations.EveryCycleCompletes : Prop :=
  ∀ s : State, s.cfg.admitted = true → s.cursor < s.cfg.frameBytes → scheduleTyped s →
    ∃ t, step s = .next t ∧ t.cursor < t.cfg.frameBytes ∧ scheduleTyped t

/-- Derived from R149 and R170: any number of cycles runs, and the invariant holds after them. -/
def Obligations.RunsNeverStop : Prop :=
  ∀ (k : Nat) (s : State), BoundaryInv s → scheduleTyped s →
    ∃ t, Host.Core.run Sys2Proof.core k s = .next t ∧ BoundaryInv t

/-- Derived, as the spec's rules R152 and R153 mark it, from R150 and R145: a cycle makes at most one present: BLANK in a
LIVE_STALE cycle, FRAME in a FRAME_COMPLETE cycle, none otherwise; and its snapshot is the buffer the cycle leaves. -/
def Obligations.AtMostOnePresentPerCycle : Prop :=
  ∀ s : State, BoundaryInv s → nextTyped s →
    ∃ t, step s = .next t ∧
      t.presents = s.presents ++
        (if staleNext s then [⟨.blank, Memory.snapshot s.cfg.frameBytes t.fb, (nextInput s).now⟩]
         else if completes s then [⟨.frame, Memory.snapshot s.cfg.frameBytes t.fb, (nextInput s).now⟩]
         else []) ∧
      (staleNext s = true → t.fb = []) ∧
      ¬ (staleNext s = true ∧ completes s = true)

/-- R80: `rx_pop` is 1 exactly in a cycle whose RX slot accepts a byte, `rx_flush` exactly in one that completes a frame; both are
0 in a reset cycle. -/
def Obligations.StrobesMarkTheOperations : Prop :=
  ∀ s : State, BoundaryInv s → nextTyped s →
    ∃ t, step s = .next t ∧ t.rxPop = accepts s ∧ t.rxFlush = completes s ∧
      (resets s = true → t.rxPop = false ∧ t.rxFlush = false)

/-- R124: after a running cycle `ind` is the negation of stale, with the timestamp the liveness slot saw, whatever level it had;
and the pin follows at once. -/
def Obligations.IndicatorIsNotStale : Prop :=
  (∀ (x : Bool) (s : State), driveIndicator x s = { s with ind := x }) ∧
  ∀ s : State, BoundaryInv s → nextTyped s → resets s = false →
    ∃ t, step s = .next t ∧ t.ind = !staleAt s.cfg (nextInput s).now (timestampSeen s) ∧
      (indPin t = s.cfg.indActiveLevel ↔ t.ind = true)

/-- Derived from R34 and R190, and from the model's reading of log 8: the indicator trace gains the level after each running
cycle, and a reset cycle, which sets the level to IND_AT_RESET, adds none. -/
def Obligations.TraceGainsRunningLevels : Prop :=
  ∀ s : State, BoundaryInv s → nextTyped s →
    ∃ t, step s = .next t ∧ (resets s = true → t.ind = s.cfg.indAtReset) ∧
      t.indTrace = s.indTrace ++ (if resets s then [] else [!staleAt s.cfg (nextInput s).now (timestampSeen s)])

/-- R109, and in part R22 and R24: only an accepted byte, a completed frame and RESET write the cursor; only an accepted byte and
RESET write the timestamp. In particular a timeout writes neither. -/
def Obligations.CursorAndTimestampWriters : Prop :=
  ∀ s : State, BoundaryInv s → nextTyped s →
    ∃ t, step s = .next t ∧
      t.cursor = (if resets s then 0 else if completes s then 0 else if accepts s then s.cursor + 1 else s.cursor) ∧
      t.lastT = (if resets s then (nextInput s).now else if accepts s then (nextInput s).now else s.lastT)

/-- Derived from R21 and R52: only an accepted byte (at the cursor), a stale cycle (all bytes to 0) and RESET (all bytes to 0)
write the buffer. -/
def Obligations.BufferWriters : Prop :=
  ∀ s : State, BoundaryInv s → nextTyped s →
    ∃ t, step s = .next t ∧
      ∀ a, Memory.read t.fb a =
        if resets s || staleNext s then 0#8
        else if accepts s = true ∧ a = byteAddress s then (arrived s).rxq.headD 0#8
        else Memory.read s.fb a

/-- Derived from R192 and R190: a reset cycle leaves the present log and, apart from the bytes that arrive before it, the
transport; it makes no present; every block register has its reset value. -/
def Obligations.ResetCycleStateInOneList : Prop :=
  ∀ s : State, BoundaryInv s → nextTyped s → resets s = true →
    ∃ t, step s = .next t ∧ (∀ a, Memory.read t.fb a = 0#8) ∧ t.cursor = 0 ∧ t.lastT = (nextInput s).now ∧
      t.ind = s.cfg.indAtReset ∧ t.phase = .accumulating ∧ t.presents = s.presents ∧ t.rxPop = false ∧
      t.rxFlush = false ∧ t.rxq = (arrived s).rxq ∧ t.held = (arrived s).held

/-- Derived from R190, corner case (3): two reset cycles in a row are the same as the second alone. For bytes held back under Stall
this rests on the model's choice of when they enter the queue (log 7). -/
def Obligations.RepeatedResetsAreOne : Prop :=
  ∀ (s : State) (i j : CycleInput) (is : List CycleInput), BoundaryInv s → i.wellTyped s.cfg = true → j.wellTyped s.cfg = true →
    i.rst = true → j.rst = true → i.arrivals = [] →
    ∃ t, Host.Core.run Sys2Proof.core 2 { s with inputs := i :: j :: is } = .next t ∧
      step { s with inputs := j :: is } = .next t

/-- Derived from R31 and R9: no step changes a build-time parameter. -/
def Obligations.ParametersNeverChange : Prop :=
  ∀ s t : State, step s = .next t → t.cfg = s.cfg

/-- Derived from R34 and R145: the present log and the indicator trace only grow, by at most one entry each in a cycle. -/
def Obligations.ObservationOnlyGrows : Prop :=
  ∀ s t : State, step s = .next t →
    ∃ ps js, t.presents = s.presents ++ ps ∧ t.indTrace = s.indTrace ++ js ∧ ps.length ≤ 1 ∧ js.length ≤ 1

/-- Derived from R131: which operation the liveness slot runs, and all that it does to indicator, buffer and present log, depends
on neither the cursor nor the buffer; it changes neither the cursor, nor the phase, nor the timestamp (R128). Over a whole step,
the same holds of the indicator, its trace and the timestamp and, in a stale cycle, of the blank that is left and presented. -/
def Obligations.LivenessIgnoresAssembly : Prop :=
  (∀ (s : State) (cur : Nat) (m : Memory),
    lvsSelector { s with cursor := cur, fb := m } = lvsSelector s ∧
    ∃ t, livenessSlot s = .next t ∧ t.cursor = s.cursor ∧ t.phase = s.phase ∧ t.lastT = s.lastT ∧
      livenessSlot { s with cursor := cur, fb := m } =
        .next { t with cursor := cur, fb := if lvsSelector s = 1#1 then t.fb else m }) ∧
  ∀ (s : State) (cur : Nat) (m : Memory), BoundaryInv s → BoundaryInv { s with cursor := cur, fb := m } → nextTyped s →
    ∃ t t', step s = .next t ∧ step { s with cursor := cur, fb := m } = .next t' ∧ t.ind = t'.ind ∧
      t.lastT = t'.lastT ∧ t.indTrace = t'.indTrace ∧
      (staleNext s = true → t.presents = t'.presents ∧ t.fb = t'.fb ∧ t.cursor = s.cursor ∧ t'.cursor = cur)

/-! ## The transport -/

/-- Derived from D13: what becomes of bytes that arrive, under each RXQ_OVERFLOW. That under Stall the bytes held back are a list,
offered again ahead of the new ones, is the model's choice (log 7). Under DropNew and DropOld no byte is held back, as the
boundary invariant says. -/
def Obligations.OverflowFollowsPolicy : Prop :=
  ∀ (s : State) (bs : List Byte), 1 ≤ s.cfg.rxqDepth → s.rxq.length ≤ s.cfg.rxqDepth →
    (s.cfg.rxqOverflow = .dropNew → s.held = [] →
      arrive bs s = { s with rxq := (s.rxq ++ bs).take s.cfg.rxqDepth }) ∧
    (s.cfg.rxqOverflow = .dropOld → s.held = [] →
      arrive bs s = { s with rxq := (s.rxq ++ bs).drop ((s.rxq ++ bs).length - s.cfg.rxqDepth) }) ∧
    (s.cfg.rxqOverflow = .stall →
      arrive bs s = { s with rxq := (s.rxq ++ s.held ++ bs).take s.cfg.rxqDepth,
                             held := (s.rxq ++ s.held ++ bs).drop s.cfg.rxqDepth })

/-- Derived from D13 and R66 (log 7): under Stall no byte is lost, and the bytes queued and held back stay in the order sent. -/
def Obligations.StallLosesNoByte : Prop :=
  ∀ (s : State) (bs : List Byte), s.cfg.rxqOverflow = .stall →
    (arrive bs s).rxq ++ (arrive bs s).held = s.rxq ++ s.held ++ bs

/-- Derived from R147, first sentence, and R146: bytes still queued when a frame completes are discarded and leave no trace: the
cycle ends as if they had never come, with the cursor at 0 and the queue empty. -/
def Obligations.QueuedExtrasLeaveNoTrace : Prop :=
  ∀ (s : State) (b : Byte) (extra : List Byte), BoundaryInv s → nextTyped s → resets s = false → (nextInput s).arrivals = [] →
    s.held = [] → s.rxq = [b] → s.cursor + 1 = s.cfg.frameBytes →
    ∃ t, step s = .next t ∧ step { s with rxq := b :: extra } = .next t ∧ t.cursor = 0 ∧ t.rxq = []

/-- Derived from R154 and conflict C5: bytes that arrive behind the last byte of a frame, before its cycle, are discarded by that
cycle's drain, so a byte that arrives during the present is rightly counted as one that came before the cycle. -/
def Obligations.ArrivalsBehindTheLastByteAreDrained : Prop :=
  ∀ (s : State) (i : CycleInput) (bs : List Byte) (is : List CycleInput), BoundaryInv s → i.wellTyped s.cfg = true →
    i.rst = false → s.held = [] → s.rxq ≠ [] → s.cursor + 1 = s.cfg.frameBytes →
    s.rxq.length + bs.length ≤ s.cfg.rxqDepth →
    ∃ t, step { s with inputs := { i with arrivals := bs } :: is } = .next t ∧
      step { s with inputs := { i with arrivals := [] } :: is } = .next t ∧ t.rxq = []

/-! ## Stretches of cycles -/

/-- Derived from R144, R105 and R66: from a cursor of 0, in a calm stretch whose last cycle takes the F-th byte, there is exactly one
present, a FRAME of the first F bytes, those already waiting and then those that arrive, in the order sent; the indicator is active
throughout, and the queue is then empty. Bytes may wait over several cycles, in the queue or, under Stall, at the sender (log 7). -/
def Obligations.FrameHoldsBytesInArrivalOrder : Prop :=
  ∀ (s : State) (is rest : List CycleInput) (i : CycleInput), BoundaryInv s → s.cursor = 0 → s.inputs = is ++ i :: rest →
    calm s.cfg s.lastT (waiting s).length (is ++ [i]) = true →
    taken (waiting s).length is + 1 = s.cfg.frameBytes → taken (waiting s).length (is ++ [i]) = s.cfg.frameBytes →
    ∃ t, Host.Core.run Sys2Proof.core (is.length + 1) s = .next t ∧
      t.presents = s.presents ++ [⟨.frame, (waiting s ++ arrivedBytes (is ++ [i])).take s.cfg.frameBytes, i.now⟩] ∧
      t.indTrace = s.indTrace ++ List.replicate (is.length + 1) true ∧
      t.cursor = 0 ∧ t.lastT = i.now ∧ t.rxq = [] ∧ t.inputs = rest

/-- Derived from R103, R105 and R66: a calm stretch that takes too few bytes to complete the frame makes no present, moves the
cursor on by their number, leaves each of them, in the order sent, at the address after the one before, and leaves the others
waiting (under Stall also at the sender, log 7). -/
def Obligations.ShortStretchNeverPresents : Prop :=
  ∀ (s : State) (is rest : List CycleInput), BoundaryInv s → s.inputs = is ++ rest →
    calm s.cfg s.lastT (waiting s).length is = true → s.cursor + taken (waiting s).length is < s.cfg.frameBytes →
    ∃ t, Host.Core.run Sys2Proof.core is.length s = .next t ∧ t.presents = s.presents ∧
      t.cursor = s.cursor + taken (waiting s).length is ∧
      (∀ k b, k < taken (waiting s).length is → (waiting s ++ arrivedBytes is)[k]? = some b →
        Memory.read t.fb (s.cursor + k) = b) ∧
      (∀ a, a < s.cursor ∨ s.cursor + taken (waiting s).length is ≤ a → Memory.read t.fb a = Memory.read s.fb a) ∧
      t.indTrace = s.indTrace ++ List.replicate is.length true ∧
      waiting t = (waiting s ++ arrivedBytes is).drop (taken (waiting s).length is) ∧ t.inputs = rest

/-- Derived from R126, R127 and R128: in a silent stretch in which the link is stale, every cycle adds one BLANK present of F
zeros at its own time; cursor and timestamp stay. -/
def Obligations.StaleStretchRepeatsBlanks : Prop :=
  ∀ (s : State) (is rest : List CycleInput), BoundaryInv s → s.rxq = [] → s.held = [] → s.inputs = is ++ rest →
    silentStale s.cfg s.lastT is = true →
    ∃ t, Host.Core.run Sys2Proof.core is.length s = .next t ∧
      t.presents = s.presents ++ is.map (fun i => ⟨.blank, List.replicate s.cfg.frameBytes 0#8, i.now⟩) ∧
      t.cursor = s.cursor ∧ t.lastT = s.lastT ∧
      t.indTrace = s.indTrace ++ List.replicate is.length false ∧ t.inputs = rest

/-- Derived from R127, R144 and conflict C2: after a timeout with the cursor at c, the next F − c bytes that are taken complete the
frame, whose present holds 0 at the addresses below c and those bytes from c on. Where the queue is full under Stall, the cycle in
which a byte held back at the sender is taken is the model's choice (log 7). -/
def Obligations.TimeoutKeepsTheCursor : Prop :=
  ∀ (s : State) (i0 i : CycleInput) (is rest : List CycleInput), BoundaryInv s → s.rxq = [] → s.held = [] →
    s.inputs = i0 :: is ++ i :: rest → silentStale s.cfg s.lastT [i0] = true →
    calm s.cfg s.lastT 0 (is ++ [i]) = true →
    s.cursor + taken 0 is + 1 = s.cfg.frameBytes → taken 0 (is ++ [i]) = taken 0 is + 1 →
    ∃ t p, Host.Core.run Sys2Proof.core (is.length + 2) s = .next t ∧
      t.presents = s.presents ++ [⟨.blank, List.replicate s.cfg.frameBytes 0#8, i0.now⟩, p] ∧ p.kind = .frame ∧
      p.snap = List.replicate s.cursor 0#8 ++ (arrivedBytes (is ++ [i])).take (s.cfg.frameBytes - s.cursor) ∧
      p.t = i.now ∧ t.cursor = 0

/-- Derived from R132 and R191: in the first running cycle after a reset cycle, with no byte, the indicator is active unless more
than T_MS ms have passed since the reset, whatever IND_AT_RESET was; and then the first blank is presented. -/
def Obligations.StartupTimeout : Prop :=
  ∀ (s : State) (i j : CycleInput) (is : List CycleInput), BoundaryInv s → s.rxq = [] → s.held = [] →
    s.inputs = i :: j :: is → i.wellTyped s.cfg = true → j.wellTyped s.cfg = true → i.rst = true → j.rst = false →
    i.arrivals = [] → j.arrivals = [] →
    ∃ t, Host.Core.run Sys2Proof.core 2 s = .next t ∧ t.lastT = i.now ∧
      t.ind = decide (elapsed s.cfg.timeW j.now i.now ≤ s.cfg.tMs) ∧
      t.presents = s.presents ++
        (if s.cfg.tMs < elapsed s.cfg.timeW j.now i.now then
          [⟨.blank, List.replicate s.cfg.frameBytes 0#8, j.now⟩] else [])

/-! ## The stimulus script -/

/-- Derived from R85, last sentence, and R87: a script loads only if it begins with CONFIG and then RESET, and its first input
record is then that reset cycle. That its configuration takes what the CONFIG line does not name from a base configuration is the
model's choice (log 17). -/
def Obligations.ScriptBeginsWithConfigAndReset : Prop :=
  ∀ (base : Config) (xs : List Stmt) (p : State × List Byte), loadScript base xs = some p →
    ∃ w h t tw d t0 ys, xs = .config w h t tw d :: .reset t0 :: ys ∧ p.1.cfg = configOf base w h t tw d ∧
      ∃ is, p.1.inputs = { arrivals := [], rst := true, now := t0, bus := 0#8 } :: is

/-- R86: the pseudo-statements' expansions. -/
def Obligations.PseudoStatementsExpand : Prop :=
  ∀ c : Config,
    (∀ b t, expandStmt c (.rx b t) = some [.arrive [b], .cycle t]) ∧
    (∀ t, expandStmt c (.idle t) = some [.cycle t]) ∧
    (∀ t0 d bs, bs.length = c.frameBytes →
      ∃ xs, expandStmt c (.frame t0 d bs) = some xs ∧ xs.length = 2 * bs.length ∧
        ∀ (k : Nat) (b : Byte), bs[k]? = some b →
          xs[2 * k]? = some (.arrive [b]) ∧ xs[2 * k + 1]? = some (.cycle ((t0 + k * d) % c.timeModulus))) ∧
    ∀ t1 t2 d, 1 ≤ d → t1 ≤ t2 →
      ∃ xs, expandStmt c (.wait t1 t2 d) = some xs ∧
        ∀ k : Nat, xs[k]? = if t1 + k * d ≤ t2 then some (.cycle (t1 + k * d)) else none

/-- The model's choice (log 17), where R86 gives no expansion: a WAIT whose end is before its start expands to no cycle, and a
WAIT of step 0 and a FRAME of other than F bytes are rejected. -/
def Obligations.PseudoStatementsOutsideTheRule : Prop :=
  ∀ c : Config,
    (∀ t1 t2 d, 1 ≤ d → t2 < t1 → expandStmt c (.wait t1 t2 d) = some []) ∧
    (∀ t1 t2, expandStmt c (.wait t1 t2 0) = none) ∧
    ∀ t0 d bs, bs.length ≠ c.frameBytes → expandStmt c (.frame t0 d bs) = none
end

