-- ==== Sys2Proof/Laws/Memory.lean ====
section
/-!
SUPPORT. The laws of the frame buffer: what a read gives after a write or a clear, that every operation keeps the canonical form,
and that canonical memories that read the same are the same.
-/

namespace Sys2Proof.Machine

@[simp] theorem Memory.read_blank (a : Nat) : Memory.read Memory.blank a = 0#8 := rfl

@[simp] theorem Memory.wf_blank (size : Nat) : Memory.wf size Memory.blank = true := rfl

theorem Memory.wfFrom_mono {size lo lo' : Nat} {m : Memory} (h : Memory.wfFrom size lo' m = true) (hl : lo ≤ lo') :
    Memory.wfFrom size lo m = true := by
  cases m with
  | nil => rfl
  | cons c m =>
    simp only [Memory.wfFrom, Bool.and_eq_true, decide_eq_true_eq] at h ⊢
    exact ⟨⟨⟨hl.trans h.1.1.1, h.1.1.2⟩, h.1.2⟩, h.2⟩

/-- A canonical memory from `lo` up reads 0 below `lo`. -/
theorem Memory.read_below {size lo a : Nat} {m : Memory} (h : Memory.wfFrom size lo m = true) (ha : a < lo) :
    Memory.read m a = 0#8 := by
  induction m generalizing lo with
  | nil => rfl
  | cons c m ih =>
    simp only [Memory.wfFrom, Bool.and_eq_true, decide_eq_true_eq] at h
    have hlo := h.1.1.1
    rw [Memory.read, if_neg (by omega)]
    exact ih h.2 (by omega)

/-- A canonical memory reads 0 at and above its size. -/
theorem Memory.read_outside {size lo a : Nat} {m : Memory} (h : Memory.wfFrom size lo m = true) (ha : size ≤ a) :
    Memory.read m a = 0#8 := by
  induction m generalizing lo with
  | nil => rfl
  | cons c m ih =>
    simp only [Memory.wfFrom, Bool.and_eq_true, decide_eq_true_eq] at h
    have hc := h.1.1.2
    rw [Memory.read, if_neg (by omega)]
    exact ih h.2

theorem Memory.wfFrom_cell {size lo a : Nat} {v : Byte} {m : Memory} (hlo : lo ≤ a) (ha : a < size)
    (h : Memory.wfFrom size (a + 1) m = true) : Memory.wfFrom size lo (Memory.cell a v m) = true := by
  unfold Memory.cell
  split
  · exact Memory.wfFrom_mono h (by omega)
  · next hv => simp [Memory.wfFrom, hlo, ha, hv, h]

theorem Memory.wfFrom_write {size lo a : Nat} {v : Byte} {m : Memory} (h : Memory.wfFrom size lo m = true) (hlo : lo ≤ a)
    (ha : a < size) : Memory.wfFrom size lo (Memory.write m a v) = true := by
  induction m generalizing lo with
  | nil => exact Memory.wfFrom_cell hlo ha rfl
  | cons c m ih =>
    obtain ⟨b, w⟩ := c
    have h' := h
    simp only [Memory.wfFrom, Bool.and_eq_true, decide_eq_true_eq] at h
    rw [Memory.write]
    split
    · next hab =>
      refine Memory.wfFrom_cell hlo ha ?_
      simp only [Memory.wfFrom, Bool.and_eq_true, decide_eq_true_eq]
      exact ⟨⟨⟨by omega, h.1.1.2⟩, h.1.2⟩, h.2⟩
    · split
      · next hab => subst hab; exact Memory.wfFrom_cell hlo ha h.2
      · simp only [Memory.wfFrom, Bool.and_eq_true, decide_eq_true_eq]
        exact ⟨h.1, ih h.2 (by omega)⟩

/-- A write at an address of the buffer keeps the canonical form. -/
theorem Memory.wf_write {size a : Nat} {v : Byte} {m : Memory} (h : Memory.wf size m = true) (ha : a < size) :
    Memory.wf size (Memory.write m a v) = true :=
  Memory.wfFrom_write h (Nat.zero_le a) ha

theorem Memory.read_cell {size a x : Nat} {v : Byte} {m : Memory} (h : Memory.wfFrom size (a + 1) m = true) :
    Memory.read (Memory.cell a v m) x = if x = a then v else Memory.read m x := by
  unfold Memory.cell
  split
  · next hv =>
    split
    · next hx => subst hx; rw [Memory.read_below h (Nat.lt_succ_self _), hv]; rfl
    · rfl
  · rfl

theorem Memory.read_write_from {size lo a x : Nat} {v : Byte} {m : Memory} (h : Memory.wfFrom size lo m = true) :
    Memory.read (Memory.write m a v) x = if x = a then v else Memory.read m x := by
  induction m generalizing lo with
  | nil => exact Memory.read_cell (size := size) rfl
  | cons c m ih =>
    obtain ⟨b, w⟩ := c
    simp only [Memory.wfFrom, Bool.and_eq_true, decide_eq_true_eq] at h
    rw [Memory.write]
    split
    · next hab =>
      refine Memory.read_cell (size := size) ?_
      simp only [Memory.wfFrom, Bool.and_eq_true, decide_eq_true_eq]
      exact ⟨⟨⟨by omega, h.1.1.2⟩, h.1.2⟩, h.2⟩
    · split
      · next hab =>
        subst hab
        rw [Memory.read_cell h.2]
        by_cases hx : x = a <;> simp [Memory.read, hx]
      · next hab =>
        rw [Memory.read, Memory.read, ih h.2]
        by_cases hx : x = b
        · have hxa : ¬ x = a := by omega
          rw [if_pos hx, if_neg hxa, if_pos hx]
        · rw [if_neg hx, if_neg hx]

/-- R52: a write sets one byte and leaves every other byte. -/
theorem Memory.read_write {size a x : Nat} {v : Byte} {m : Memory} (h : Memory.wf size m = true) :
    Memory.read (Memory.write m a v) x = if x = a then v else Memory.read m x :=
  Memory.read_write_from h

theorem Memory.read_write_same {size a : Nat} {v : Byte} {m : Memory} (h : Memory.wf size m = true) :
    Memory.read (Memory.write m a v) a = v := by
  rw [Memory.read_write h, if_pos rfl]

theorem Memory.read_write_other {size a x : Nat} {v : Byte} {m : Memory} (h : Memory.wf size m = true) (hx : x ≠ a) :
    Memory.read (Memory.write m a v) x = Memory.read m x := by
  rw [Memory.read_write h, if_neg hx]

/-- Canonical memories that read the same at every address are equal. -/
theorem Memory.eq_of_reads {size lo lo' : Nat} {m m' : Memory} (h : Memory.wfFrom size lo m = true)
    (h' : Memory.wfFrom size lo' m' = true) (hr : ∀ a, Memory.read m a = Memory.read m' a) : m = m' := by
  induction m generalizing lo lo' m' with
  | nil =>
    cases m' with
    | nil => rfl
    | cons c m' =>
      simp only [Memory.wfFrom, Bool.and_eq_true, decide_eq_true_eq] at h'
      have := hr c.1
      simp only [Memory.read, if_true] at this
      exact absurd this.symm h'.1.2
  | cons c m ih =>
    obtain ⟨a, v⟩ := c
    simp only [Memory.wfFrom, Bool.and_eq_true, decide_eq_true_eq] at h
    cases m' with
    | nil =>
      have := hr a
      simp only [Memory.read, if_true] at this
      exact absurd this h.1.2
    | cons c' m' =>
      obtain ⟨a', v'⟩ := c'
      simp only [Memory.wfFrom, Bool.and_eq_true, decide_eq_true_eq] at h'
      have haa : a = a' := by
        rcases Nat.lt_trichotomy a a' with hlt | heq | hgt
        · have := hr a
          rw [Memory.read, if_pos rfl, Memory.read, if_neg (by omega), Memory.read_below h'.2 (by omega)] at this
          exact absurd this h.1.2
        · exact heq
        · have := hr a'
          rw [Memory.read, if_neg (by omega), Memory.read_below h.2 (by omega), Memory.read, if_pos rfl] at this
          exact absurd this.symm h'.1.2
      subst haa
      have hv : v = v' := by
        have := hr a
        rwa [Memory.read, if_pos rfl, Memory.read, if_pos rfl] at this
      subst hv
      rw [ih h.2 h'.2 ?_]
      intro x
      by_cases hx : x = a
      · subst hx; rw [Memory.read_below h.2 (by omega), Memory.read_below h'.2 (by omega)]
      · have := hr x
        rwa [Memory.read, if_neg hx, Memory.read, if_neg hx] at this

@[simp] theorem Memory.snapshot_length (size : Nat) (m : Memory) : (Memory.snapshot size m).length = size := by
  simp [Memory.snapshot]

/-- R53: byte `a` of a snapshot is the byte at address `a`. -/
theorem Memory.snapshot_get {size a : Nat} (m : Memory) (ha : a < size) :
    (Memory.snapshot size m)[a]? = some (Memory.read m a) := by
  simp [Memory.snapshot, ha]

/-- The snapshot of the blank buffer is F zeros. -/
theorem Memory.snapshot_blank (size : Nat) : Memory.snapshot size Memory.blank = List.replicate size 0#8 := by
  refine List.ext_getElem (by simp) ?_
  intro i h1 h2
  simp [Memory.snapshot]

end Sys2Proof.Machine
end

