-- ==== Sys2Proof/Laws/State.lean ====
section
/-!
SUPPORT. One lemma per field per update of the state, so that no proof unfolds a record update.
-/

namespace Sys2Proof.Machine

variable (s : State)

/-! ## memClear -/

@[simp] theorem memClear_cfg : (memClear s).cfg = s.cfg := rfl
@[simp] theorem memClear_fb : (memClear s).fb = Memory.blank := rfl
@[simp] theorem memClear_cursor : (memClear s).cursor = s.cursor := rfl
@[simp] theorem memClear_lastT : (memClear s).lastT = s.lastT := rfl
@[simp] theorem memClear_ind : (memClear s).ind = s.ind := rfl
@[simp] theorem memClear_rxPop : (memClear s).rxPop = s.rxPop := rfl
@[simp] theorem memClear_rxFlush : (memClear s).rxFlush = s.rxFlush := rfl
@[simp] theorem memClear_now : (memClear s).now = s.now := rfl
@[simp] theorem memClear_n : (memClear s).n = s.n := rfl
@[simp] theorem memClear_complete : (memClear s).complete = s.complete := rfl
@[simp] theorem memClear_rxq : (memClear s).rxq = s.rxq := rfl
@[simp] theorem memClear_held : (memClear s).held = s.held := rfl
@[simp] theorem memClear_presents : (memClear s).presents = s.presents := rfl
@[simp] theorem memClear_indTrace : (memClear s).indTrace = s.indTrace := rfl
@[simp] theorem memClear_inputs : (memClear s).inputs = s.inputs := rfl
@[simp] theorem memClear_draws : (memClear s).draws = s.draws := rfl

/-! ## setCursor -/

@[simp] theorem setCursor_cfg (v : Nat) : (setCursor v s).cfg = s.cfg := rfl
@[simp] theorem setCursor_fb (v : Nat) : (setCursor v s).fb = s.fb := rfl
@[simp] theorem setCursor_cursor (v : Nat) : (setCursor v s).cursor = v := rfl
@[simp] theorem setCursor_lastT (v : Nat) : (setCursor v s).lastT = s.lastT := rfl
@[simp] theorem setCursor_ind (v : Nat) : (setCursor v s).ind = s.ind := rfl
@[simp] theorem setCursor_rxPop (v : Nat) : (setCursor v s).rxPop = s.rxPop := rfl
@[simp] theorem setCursor_rxFlush (v : Nat) : (setCursor v s).rxFlush = s.rxFlush := rfl
@[simp] theorem setCursor_now (v : Nat) : (setCursor v s).now = s.now := rfl
@[simp] theorem setCursor_n (v : Nat) : (setCursor v s).n = s.n := rfl
@[simp] theorem setCursor_complete (v : Nat) : (setCursor v s).complete = s.complete := rfl
@[simp] theorem setCursor_rxq (v : Nat) : (setCursor v s).rxq = s.rxq := rfl
@[simp] theorem setCursor_held (v : Nat) : (setCursor v s).held = s.held := rfl
@[simp] theorem setCursor_presents (v : Nat) : (setCursor v s).presents = s.presents := rfl
@[simp] theorem setCursor_indTrace (v : Nat) : (setCursor v s).indTrace = s.indTrace := rfl
@[simp] theorem setCursor_inputs (v : Nat) : (setCursor v s).inputs = s.inputs := rfl
@[simp] theorem setCursor_draws (v : Nat) : (setCursor v s).draws = s.draws := rfl

/-! ## refreshTimestamp -/

@[simp] theorem refreshTimestamp_cfg : (refreshTimestamp s).cfg = s.cfg := rfl
@[simp] theorem refreshTimestamp_fb : (refreshTimestamp s).fb = s.fb := rfl
@[simp] theorem refreshTimestamp_cursor : (refreshTimestamp s).cursor = s.cursor := rfl
@[simp] theorem refreshTimestamp_lastT : (refreshTimestamp s).lastT = s.now := rfl
@[simp] theorem refreshTimestamp_ind : (refreshTimestamp s).ind = s.ind := rfl
@[simp] theorem refreshTimestamp_rxPop : (refreshTimestamp s).rxPop = s.rxPop := rfl
@[simp] theorem refreshTimestamp_rxFlush : (refreshTimestamp s).rxFlush = s.rxFlush := rfl
@[simp] theorem refreshTimestamp_now : (refreshTimestamp s).now = s.now := rfl
@[simp] theorem refreshTimestamp_n : (refreshTimestamp s).n = s.n := rfl
@[simp] theorem refreshTimestamp_complete : (refreshTimestamp s).complete = s.complete := rfl
@[simp] theorem refreshTimestamp_rxq : (refreshTimestamp s).rxq = s.rxq := rfl
@[simp] theorem refreshTimestamp_held : (refreshTimestamp s).held = s.held := rfl
@[simp] theorem refreshTimestamp_presents : (refreshTimestamp s).presents = s.presents := rfl
@[simp] theorem refreshTimestamp_indTrace : (refreshTimestamp s).indTrace = s.indTrace := rfl
@[simp] theorem refreshTimestamp_inputs : (refreshTimestamp s).inputs = s.inputs := rfl
@[simp] theorem refreshTimestamp_draws : (refreshTimestamp s).draws = s.draws := rfl

/-! ## driveIndicator -/

@[simp] theorem driveIndicator_cfg (x : Bool) : (driveIndicator x s).cfg = s.cfg := rfl
@[simp] theorem driveIndicator_fb (x : Bool) : (driveIndicator x s).fb = s.fb := rfl
@[simp] theorem driveIndicator_cursor (x : Bool) : (driveIndicator x s).cursor = s.cursor := rfl
@[simp] theorem driveIndicator_lastT (x : Bool) : (driveIndicator x s).lastT = s.lastT := rfl
@[simp] theorem driveIndicator_ind (x : Bool) : (driveIndicator x s).ind = x := rfl
@[simp] theorem driveIndicator_rxPop (x : Bool) : (driveIndicator x s).rxPop = s.rxPop := rfl
@[simp] theorem driveIndicator_rxFlush (x : Bool) : (driveIndicator x s).rxFlush = s.rxFlush := rfl
@[simp] theorem driveIndicator_now (x : Bool) : (driveIndicator x s).now = s.now := rfl
@[simp] theorem driveIndicator_n (x : Bool) : (driveIndicator x s).n = s.n := rfl
@[simp] theorem driveIndicator_complete (x : Bool) : (driveIndicator x s).complete = s.complete := rfl
@[simp] theorem driveIndicator_rxq (x : Bool) : (driveIndicator x s).rxq = s.rxq := rfl
@[simp] theorem driveIndicator_held (x : Bool) : (driveIndicator x s).held = s.held := rfl
@[simp] theorem driveIndicator_presents (x : Bool) : (driveIndicator x s).presents = s.presents := rfl
@[simp] theorem driveIndicator_indTrace (x : Bool) : (driveIndicator x s).indTrace = s.indTrace := rfl
@[simp] theorem driveIndicator_inputs (x : Bool) : (driveIndicator x s).inputs = s.inputs := rfl
@[simp] theorem driveIndicator_draws (x : Bool) : (driveIndicator x s).draws = s.draws := rfl

/-! ## strobePop -/

@[simp] theorem strobePop_cfg (x : Bool) : (strobePop x s).cfg = s.cfg := rfl
@[simp] theorem strobePop_fb (x : Bool) : (strobePop x s).fb = s.fb := rfl
@[simp] theorem strobePop_cursor (x : Bool) : (strobePop x s).cursor = s.cursor := rfl
@[simp] theorem strobePop_lastT (x : Bool) : (strobePop x s).lastT = s.lastT := rfl
@[simp] theorem strobePop_ind (x : Bool) : (strobePop x s).ind = s.ind := rfl
@[simp] theorem strobePop_rxPop (x : Bool) : (strobePop x s).rxPop = x := rfl
@[simp] theorem strobePop_rxFlush (x : Bool) : (strobePop x s).rxFlush = s.rxFlush := rfl
@[simp] theorem strobePop_now (x : Bool) : (strobePop x s).now = s.now := rfl
@[simp] theorem strobePop_n (x : Bool) : (strobePop x s).n = s.n := rfl
@[simp] theorem strobePop_complete (x : Bool) : (strobePop x s).complete = s.complete := rfl
@[simp] theorem strobePop_rxq (x : Bool) : (strobePop x s).rxq = s.rxq := rfl
@[simp] theorem strobePop_held (x : Bool) : (strobePop x s).held = s.held := rfl
@[simp] theorem strobePop_presents (x : Bool) : (strobePop x s).presents = s.presents := rfl
@[simp] theorem strobePop_indTrace (x : Bool) : (strobePop x s).indTrace = s.indTrace := rfl
@[simp] theorem strobePop_inputs (x : Bool) : (strobePop x s).inputs = s.inputs := rfl
@[simp] theorem strobePop_draws (x : Bool) : (strobePop x s).draws = s.draws := rfl

/-! ## strobeFlush -/

@[simp] theorem strobeFlush_cfg (x : Bool) : (strobeFlush x s).cfg = s.cfg := rfl
@[simp] theorem strobeFlush_fb (x : Bool) : (strobeFlush x s).fb = s.fb := rfl
@[simp] theorem strobeFlush_cursor (x : Bool) : (strobeFlush x s).cursor = s.cursor := rfl
@[simp] theorem strobeFlush_lastT (x : Bool) : (strobeFlush x s).lastT = s.lastT := rfl
@[simp] theorem strobeFlush_ind (x : Bool) : (strobeFlush x s).ind = s.ind := rfl
@[simp] theorem strobeFlush_rxPop (x : Bool) : (strobeFlush x s).rxPop = s.rxPop := rfl
@[simp] theorem strobeFlush_rxFlush (x : Bool) : (strobeFlush x s).rxFlush = x := rfl
@[simp] theorem strobeFlush_now (x : Bool) : (strobeFlush x s).now = s.now := rfl
@[simp] theorem strobeFlush_n (x : Bool) : (strobeFlush x s).n = s.n := rfl
@[simp] theorem strobeFlush_complete (x : Bool) : (strobeFlush x s).complete = s.complete := rfl
@[simp] theorem strobeFlush_rxq (x : Bool) : (strobeFlush x s).rxq = s.rxq := rfl
@[simp] theorem strobeFlush_held (x : Bool) : (strobeFlush x s).held = s.held := rfl
@[simp] theorem strobeFlush_presents (x : Bool) : (strobeFlush x s).presents = s.presents := rfl
@[simp] theorem strobeFlush_indTrace (x : Bool) : (strobeFlush x s).indTrace = s.indTrace := rfl
@[simp] theorem strobeFlush_inputs (x : Bool) : (strobeFlush x s).inputs = s.inputs := rfl
@[simp] theorem strobeFlush_draws (x : Bool) : (strobeFlush x s).draws = s.draws := rfl

/-! ## setCount -/

@[simp] theorem setCount_cfg (k : Nat) (x : Bool) : (setCount k x s).cfg = s.cfg := rfl
@[simp] theorem setCount_fb (k : Nat) (x : Bool) : (setCount k x s).fb = s.fb := rfl
@[simp] theorem setCount_cursor (k : Nat) (x : Bool) : (setCount k x s).cursor = s.cursor := rfl
@[simp] theorem setCount_lastT (k : Nat) (x : Bool) : (setCount k x s).lastT = s.lastT := rfl
@[simp] theorem setCount_ind (k : Nat) (x : Bool) : (setCount k x s).ind = s.ind := rfl
@[simp] theorem setCount_rxPop (k : Nat) (x : Bool) : (setCount k x s).rxPop = s.rxPop := rfl
@[simp] theorem setCount_rxFlush (k : Nat) (x : Bool) : (setCount k x s).rxFlush = s.rxFlush := rfl
@[simp] theorem setCount_now (k : Nat) (x : Bool) : (setCount k x s).now = s.now := rfl
@[simp] theorem setCount_n (k : Nat) (x : Bool) : (setCount k x s).n = k := rfl
@[simp] theorem setCount_complete (k : Nat) (x : Bool) : (setCount k x s).complete = x := rfl
@[simp] theorem setCount_rxq (k : Nat) (x : Bool) : (setCount k x s).rxq = s.rxq := rfl
@[simp] theorem setCount_held (k : Nat) (x : Bool) : (setCount k x s).held = s.held := rfl
@[simp] theorem setCount_presents (k : Nat) (x : Bool) : (setCount k x s).presents = s.presents := rfl
@[simp] theorem setCount_indTrace (k : Nat) (x : Bool) : (setCount k x s).indTrace = s.indTrace := rfl
@[simp] theorem setCount_inputs (k : Nat) (x : Bool) : (setCount k x s).inputs = s.inputs := rfl
@[simp] theorem setCount_draws (k : Nat) (x : Bool) : (setCount k x s).draws = s.draws := rfl

/-! ## present -/

@[simp] theorem present_cfg (kind : PresentKind) : (present kind s).cfg = s.cfg := rfl
@[simp] theorem present_fb (kind : PresentKind) : (present kind s).fb = s.fb := rfl
@[simp] theorem present_cursor (kind : PresentKind) : (present kind s).cursor = s.cursor := rfl
@[simp] theorem present_lastT (kind : PresentKind) : (present kind s).lastT = s.lastT := rfl
@[simp] theorem present_ind (kind : PresentKind) : (present kind s).ind = s.ind := rfl
@[simp] theorem present_rxPop (kind : PresentKind) : (present kind s).rxPop = s.rxPop := rfl
@[simp] theorem present_rxFlush (kind : PresentKind) : (present kind s).rxFlush = s.rxFlush := rfl
@[simp] theorem present_now (kind : PresentKind) : (present kind s).now = s.now := rfl
@[simp] theorem present_n (kind : PresentKind) : (present kind s).n = s.n := rfl
@[simp] theorem present_complete (kind : PresentKind) : (present kind s).complete = s.complete := rfl
@[simp] theorem present_rxq (kind : PresentKind) : (present kind s).rxq = s.rxq := rfl
@[simp] theorem present_held (kind : PresentKind) : (present kind s).held = s.held := rfl
@[simp] theorem present_presents (kind : PresentKind) :
    (present kind s).presents = s.presents ++ [⟨kind, Memory.snapshot s.cfg.frameBytes s.fb, s.now⟩] := rfl
@[simp] theorem present_indTrace (kind : PresentKind) : (present kind s).indTrace = s.indTrace := rfl
@[simp] theorem present_inputs (kind : PresentKind) : (present kind s).inputs = s.inputs := rfl
@[simp] theorem present_draws (kind : PresentKind) : (present kind s).draws = s.draws := rfl

/-! ## rxFlushQueue -/

@[simp] theorem rxFlushQueue_cfg : (rxFlushQueue s).cfg = s.cfg := rfl
@[simp] theorem rxFlushQueue_fb : (rxFlushQueue s).fb = s.fb := rfl
@[simp] theorem rxFlushQueue_cursor : (rxFlushQueue s).cursor = s.cursor := rfl
@[simp] theorem rxFlushQueue_lastT : (rxFlushQueue s).lastT = s.lastT := rfl
@[simp] theorem rxFlushQueue_ind : (rxFlushQueue s).ind = s.ind := rfl
@[simp] theorem rxFlushQueue_rxPop : (rxFlushQueue s).rxPop = s.rxPop := rfl
@[simp] theorem rxFlushQueue_rxFlush : (rxFlushQueue s).rxFlush = s.rxFlush := rfl
@[simp] theorem rxFlushQueue_now : (rxFlushQueue s).now = s.now := rfl
@[simp] theorem rxFlushQueue_n : (rxFlushQueue s).n = s.n := rfl
@[simp] theorem rxFlushQueue_complete : (rxFlushQueue s).complete = s.complete := rfl
@[simp] theorem rxFlushQueue_rxq : (rxFlushQueue s).rxq = [] := rfl
@[simp] theorem rxFlushQueue_held : (rxFlushQueue s).held = s.held := rfl
@[simp] theorem rxFlushQueue_presents : (rxFlushQueue s).presents = s.presents := rfl
@[simp] theorem rxFlushQueue_indTrace : (rxFlushQueue s).indTrace = s.indTrace := rfl
@[simp] theorem rxFlushQueue_inputs : (rxFlushQueue s).inputs = s.inputs := rfl
@[simp] theorem rxFlushQueue_draws : (rxFlushQueue s).draws = s.draws := rfl

/-! ## arrive -/

@[simp] theorem arrive_cfg (bs : List Byte) : (arrive bs s).cfg = s.cfg := rfl
@[simp] theorem arrive_fb (bs : List Byte) : (arrive bs s).fb = s.fb := rfl
@[simp] theorem arrive_cursor (bs : List Byte) : (arrive bs s).cursor = s.cursor := rfl
@[simp] theorem arrive_lastT (bs : List Byte) : (arrive bs s).lastT = s.lastT := rfl
@[simp] theorem arrive_ind (bs : List Byte) : (arrive bs s).ind = s.ind := rfl
@[simp] theorem arrive_rxPop (bs : List Byte) : (arrive bs s).rxPop = s.rxPop := rfl
@[simp] theorem arrive_rxFlush (bs : List Byte) : (arrive bs s).rxFlush = s.rxFlush := rfl
@[simp] theorem arrive_now (bs : List Byte) : (arrive bs s).now = s.now := rfl
@[simp] theorem arrive_n (bs : List Byte) : (arrive bs s).n = s.n := rfl
@[simp] theorem arrive_complete (bs : List Byte) : (arrive bs s).complete = s.complete := rfl
@[simp] theorem arrive_rxq (bs : List Byte) : (arrive bs s).rxq = (offerAll s.cfg (s.rxq, []) (s.held ++ bs)).1 := rfl
@[simp] theorem arrive_held (bs : List Byte) :
    (arrive bs s).held = (offerAll s.cfg (s.rxq, []) (s.held ++ bs)).2 := rfl
@[simp] theorem arrive_presents (bs : List Byte) : (arrive bs s).presents = s.presents := rfl
@[simp] theorem arrive_indTrace (bs : List Byte) : (arrive bs s).indTrace = s.indTrace := rfl
@[simp] theorem arrive_inputs (bs : List Byte) : (arrive bs s).inputs = s.inputs := rfl
@[simp] theorem arrive_draws (bs : List Byte) : (arrive bs s).draws = s.draws := rfl

/-! ## openCycle -/

@[simp] theorem openCycle_cfg (t : Nat) : (openCycle t s).cfg = s.cfg := rfl
@[simp] theorem openCycle_fb (t : Nat) : (openCycle t s).fb = s.fb := rfl
@[simp] theorem openCycle_cursor (t : Nat) : (openCycle t s).cursor = s.cursor := rfl
@[simp] theorem openCycle_lastT (t : Nat) : (openCycle t s).lastT = s.lastT := rfl
@[simp] theorem openCycle_ind (t : Nat) : (openCycle t s).ind = s.ind := rfl
@[simp] theorem openCycle_rxPop (t : Nat) : (openCycle t s).rxPop = s.rxPop := rfl
@[simp] theorem openCycle_rxFlush (t : Nat) : (openCycle t s).rxFlush = s.rxFlush := rfl
@[simp] theorem openCycle_now (t : Nat) : (openCycle t s).now = t := rfl
@[simp] theorem openCycle_n (t : Nat) : (openCycle t s).n = s.n := rfl
@[simp] theorem openCycle_complete (t : Nat) : (openCycle t s).complete = s.complete := rfl
@[simp] theorem openCycle_rxq (t : Nat) : (openCycle t s).rxq = s.rxq := rfl
@[simp] theorem openCycle_held (t : Nat) : (openCycle t s).held = s.held := rfl
@[simp] theorem openCycle_presents (t : Nat) : (openCycle t s).presents = s.presents := rfl
@[simp] theorem openCycle_indTrace (t : Nat) : (openCycle t s).indTrace = s.indTrace := rfl
@[simp] theorem openCycle_inputs (t : Nat) : (openCycle t s).inputs = s.inputs := rfl
@[simp] theorem openCycle_draws (t : Nat) : (openCycle t s).draws = s.draws := rfl

/-! ## closeCycle -/

@[simp] theorem closeCycle_cfg : (closeCycle s).cfg = s.cfg := rfl
@[simp] theorem closeCycle_fb : (closeCycle s).fb = s.fb := rfl
@[simp] theorem closeCycle_cursor : (closeCycle s).cursor = s.cursor := rfl
@[simp] theorem closeCycle_lastT : (closeCycle s).lastT = s.lastT := rfl
@[simp] theorem closeCycle_ind : (closeCycle s).ind = s.ind := rfl
@[simp] theorem closeCycle_rxPop : (closeCycle s).rxPop = s.rxPop := rfl
@[simp] theorem closeCycle_rxFlush : (closeCycle s).rxFlush = s.rxFlush := rfl
@[simp] theorem closeCycle_now : (closeCycle s).now = 0 := rfl
@[simp] theorem closeCycle_n : (closeCycle s).n = 0 := rfl
@[simp] theorem closeCycle_complete : (closeCycle s).complete = false := rfl
@[simp] theorem closeCycle_rxq : (closeCycle s).rxq = s.rxq := rfl
@[simp] theorem closeCycle_held : (closeCycle s).held = s.held := rfl
@[simp] theorem closeCycle_presents : (closeCycle s).presents = s.presents := rfl
@[simp] theorem closeCycle_indTrace : (closeCycle s).indTrace = s.indTrace := rfl
@[simp] theorem closeCycle_inputs : (closeCycle s).inputs = s.inputs := rfl
@[simp] theorem closeCycle_draws : (closeCycle s).draws = s.draws := rfl

/-! ## recordIndicator -/

@[simp] theorem recordIndicator_cfg : (recordIndicator s).cfg = s.cfg := rfl
@[simp] theorem recordIndicator_fb : (recordIndicator s).fb = s.fb := rfl
@[simp] theorem recordIndicator_cursor : (recordIndicator s).cursor = s.cursor := rfl
@[simp] theorem recordIndicator_lastT : (recordIndicator s).lastT = s.lastT := rfl
@[simp] theorem recordIndicator_ind : (recordIndicator s).ind = s.ind := rfl
@[simp] theorem recordIndicator_rxPop : (recordIndicator s).rxPop = s.rxPop := rfl
@[simp] theorem recordIndicator_rxFlush : (recordIndicator s).rxFlush = s.rxFlush := rfl
@[simp] theorem recordIndicator_now : (recordIndicator s).now = s.now := rfl
@[simp] theorem recordIndicator_n : (recordIndicator s).n = s.n := rfl
@[simp] theorem recordIndicator_complete : (recordIndicator s).complete = s.complete := rfl
@[simp] theorem recordIndicator_rxq : (recordIndicator s).rxq = s.rxq := rfl
@[simp] theorem recordIndicator_held : (recordIndicator s).held = s.held := rfl
@[simp] theorem recordIndicator_presents : (recordIndicator s).presents = s.presents := rfl
@[simp] theorem recordIndicator_indTrace : (recordIndicator s).indTrace = s.indTrace ++ [s.ind] := rfl
@[simp] theorem recordIndicator_inputs : (recordIndicator s).inputs = s.inputs := rfl
@[simp] theorem recordIndicator_draws : (recordIndicator s).draws = s.draws := rfl

/-! ## scheduleFirst -/

@[simp] theorem scheduleFirst_cfg (i : CycleInput) : (scheduleFirst i s).cfg = s.cfg := rfl
@[simp] theorem scheduleFirst_fb (i : CycleInput) : (scheduleFirst i s).fb = s.fb := rfl
@[simp] theorem scheduleFirst_cursor (i : CycleInput) : (scheduleFirst i s).cursor = s.cursor := rfl
@[simp] theorem scheduleFirst_lastT (i : CycleInput) : (scheduleFirst i s).lastT = s.lastT := rfl
@[simp] theorem scheduleFirst_ind (i : CycleInput) : (scheduleFirst i s).ind = s.ind := rfl
@[simp] theorem scheduleFirst_rxPop (i : CycleInput) : (scheduleFirst i s).rxPop = s.rxPop := rfl
@[simp] theorem scheduleFirst_rxFlush (i : CycleInput) : (scheduleFirst i s).rxFlush = s.rxFlush := rfl
@[simp] theorem scheduleFirst_now (i : CycleInput) : (scheduleFirst i s).now = s.now := rfl
@[simp] theorem scheduleFirst_n (i : CycleInput) : (scheduleFirst i s).n = s.n := rfl
@[simp] theorem scheduleFirst_complete (i : CycleInput) : (scheduleFirst i s).complete = s.complete := rfl
@[simp] theorem scheduleFirst_rxq (i : CycleInput) : (scheduleFirst i s).rxq = s.rxq := rfl
@[simp] theorem scheduleFirst_held (i : CycleInput) : (scheduleFirst i s).held = s.held := rfl
@[simp] theorem scheduleFirst_presents (i : CycleInput) : (scheduleFirst i s).presents = s.presents := rfl
@[simp] theorem scheduleFirst_indTrace (i : CycleInput) : (scheduleFirst i s).indTrace = s.indTrace := rfl
@[simp] theorem scheduleFirst_inputs (i : CycleInput) : (scheduleFirst i s).inputs = i :: s.inputs := rfl
@[simp] theorem scheduleFirst_draws (i : CycleInput) : (scheduleFirst i s).draws = s.draws := rfl

/-! ## emptyTransport -/

@[simp] theorem emptyTransport_cfg : (emptyTransport s).cfg = s.cfg := rfl
@[simp] theorem emptyTransport_fb : (emptyTransport s).fb = s.fb := rfl
@[simp] theorem emptyTransport_cursor : (emptyTransport s).cursor = s.cursor := rfl
@[simp] theorem emptyTransport_lastT : (emptyTransport s).lastT = s.lastT := rfl
@[simp] theorem emptyTransport_ind : (emptyTransport s).ind = s.ind := rfl
@[simp] theorem emptyTransport_rxPop : (emptyTransport s).rxPop = s.rxPop := rfl
@[simp] theorem emptyTransport_rxFlush : (emptyTransport s).rxFlush = s.rxFlush := rfl
@[simp] theorem emptyTransport_now : (emptyTransport s).now = s.now := rfl
@[simp] theorem emptyTransport_n : (emptyTransport s).n = s.n := rfl
@[simp] theorem emptyTransport_complete : (emptyTransport s).complete = s.complete := rfl
@[simp] theorem emptyTransport_rxq : (emptyTransport s).rxq = [] := rfl
@[simp] theorem emptyTransport_held : (emptyTransport s).held = [] := rfl
@[simp] theorem emptyTransport_presents : (emptyTransport s).presents = s.presents := rfl
@[simp] theorem emptyTransport_indTrace : (emptyTransport s).indTrace = s.indTrace := rfl
@[simp] theorem emptyTransport_inputs : (emptyTransport s).inputs = s.inputs := rfl
@[simp] theorem emptyTransport_draws : (emptyTransport s).draws = s.draws := rfl

/-! ## queueFirst -/

@[simp] theorem queueFirst_cfg (b : Byte) : (queueFirst b s).cfg = s.cfg := rfl
@[simp] theorem queueFirst_fb (b : Byte) : (queueFirst b s).fb = s.fb := rfl
@[simp] theorem queueFirst_cursor (b : Byte) : (queueFirst b s).cursor = s.cursor := rfl
@[simp] theorem queueFirst_lastT (b : Byte) : (queueFirst b s).lastT = s.lastT := rfl
@[simp] theorem queueFirst_ind (b : Byte) : (queueFirst b s).ind = s.ind := rfl
@[simp] theorem queueFirst_rxPop (b : Byte) : (queueFirst b s).rxPop = s.rxPop := rfl
@[simp] theorem queueFirst_rxFlush (b : Byte) : (queueFirst b s).rxFlush = s.rxFlush := rfl
@[simp] theorem queueFirst_now (b : Byte) : (queueFirst b s).now = s.now := rfl
@[simp] theorem queueFirst_n (b : Byte) : (queueFirst b s).n = s.n := rfl
@[simp] theorem queueFirst_complete (b : Byte) : (queueFirst b s).complete = s.complete := rfl
@[simp] theorem queueFirst_rxq (b : Byte) : (queueFirst b s).rxq = b :: s.rxq.tail := rfl
@[simp] theorem queueFirst_held (b : Byte) : (queueFirst b s).held = s.held := rfl
@[simp] theorem queueFirst_presents (b : Byte) : (queueFirst b s).presents = s.presents := rfl
@[simp] theorem queueFirst_indTrace (b : Byte) : (queueFirst b s).indTrace = s.indTrace := rfl
@[simp] theorem queueFirst_inputs (b : Byte) : (queueFirst b s).inputs = s.inputs := rfl
@[simp] theorem queueFirst_draws (b : Byte) : (queueFirst b s).draws = s.draws := rfl

end Sys2Proof.Machine
end

