-- ==== Sys2Proof/Laws/Ops.lean ====
section
/-!
SUPPORT. For each shared operation, once, what it can do; later proofs cite these and do not unfold the operation.
-/

namespace Sys2Proof.Machine

/-! ## The frame buffer -/

/-- A buffer write succeeds exactly at the addresses of the buffer. -/
theorem memWrite_eq_some_iff {s t : State} {a : Nat} {v : Byte} :
    memWrite s a v = some t ↔ a < s.cfg.frameBytes ∧ t = { s with fb := Memory.write s.fb a v } := by
  unfold memWrite
  split <;> simp_all [eq_comm]

theorem memWrite_of_lt {s : State} {a : Nat} (v : Byte) (h : a < s.cfg.frameBytes) :
    memWrite s a v = some { s with fb := Memory.write s.fb a v } := if_pos h

theorem memWrite_of_not_lt {s : State} {a : Nat} (v : Byte) (h : ¬ a < s.cfg.frameBytes) : memWrite s a v = none := if_neg h

/-! ## Words -/

@[simp] theorem rxValid_rxSome (b : Byte) : rxValid (rxSome b) = true := by
  revert b
  decide

@[simp] theorem rxValid_rxNone (d : Byte) : rxValid (rxNone d) = false := by
  revert d
  decide

@[simp] theorem rxData_rxSome (b : Byte) : rxData (rxSome b) = b := by
  revert b
  decide

@[simp] theorem decodeRxw_rxSome (b : Byte) : decodeRxw (rxSome b) = .acceptByte b := by simp [decodeRxw]

@[simp] theorem decodeRxw_rxNone (d : Byte) : decodeRxw (rxNone d) = .noByte := by simp [decodeRxw]

/-! ## Selectors -/

@[simp] theorem selectorOf_eq_one (b : Bool) : (selectorOf b = 1#1) ↔ b = true := by cases b <;> decide

@[simp] theorem decodeRst_rstSelector (c : Cin) :
    decodeRst (rstSelector c) = if c.rst then some .reset else none := by
  simp [decodeRst, rstSelector]

@[simp] theorem decodeLvs_lvsSelector (s : State) :
    decodeLvs (lvsSelector s) = if isStale s then .liveStale else .liveActive := by
  simp [decodeLvs, lvsSelector]

@[simp] theorem decodeFcs_fcsSelector (s : State) :
    decodeFcs (fcsSelector s) = if s.complete then .frameComplete else .frameNone := by
  simp [decodeFcs, fcsSelector]

/-! ## Time -/

theorem elapsed_self (w t : Nat) : elapsed w t t = 0 := by simp [elapsed]

theorem elapsed_lt (w now last : Nat) : elapsed w now last < 2 ^ w := BitVec.isLt _

/-- At the time of the last byte the link is not stale. -/
@[simp] theorem staleAt_self (c : Config) (t : Nat) : staleAt c t t = false := by simp [staleAt, elapsed_self]

/-! ## The transport -/

theorem rxPoll_empty {s : State} (bus : Byte) (h : s.rxq = []) : rxPoll bus s = (rxNone bus, s) := by
  simp [rxPoll, h]

theorem rxPoll_cons {s : State} {b : Byte} {q : List Byte} (bus : Byte) (h : s.rxq = b :: q) :
    rxPoll bus s = (rxSome b, { s with rxq := q }) := by
  simp [rxPoll, h]

theorem offerAll_append (c : Config) (p : List Byte × List Byte) (as bs : List Byte) :
    offerAll c p (as ++ bs) = offerAll c (offerAll c p as) bs := by
  induction as generalizing p with
  | nil => rfl
  | cons a as ih => exact ih _

/-- One arrival keeps the queue within its depth (R32). -/
theorem offer_length {c : Config} {p : List Byte × List Byte} {b : Byte} (hd : 1 ≤ c.rxqDepth)
    (h : p.1.length ≤ c.rxqDepth) : (offer c p b).1.length ≤ c.rxqDepth := by
  unfold offer
  split
  · rw [List.length_append, List.length_singleton]; omega
  · split
    · exact h
    · rw [List.length_append, List.length_tail, List.length_singleton]; omega
    · exact h

/-- Arrivals keep the queue within its depth (R32). -/
theorem offerAll_length {c : Config} {p : List Byte × List Byte} (bs : List Byte) (hd : 1 ≤ c.rxqDepth)
    (h : p.1.length ≤ c.rxqDepth) : (offerAll c p bs).1.length ≤ c.rxqDepth := by
  induction bs generalizing p with
  | nil => exact h
  | cons b bs ih => exact ih (offer_length hd h)

/-- Only under Stall are bytes held back (D13). -/
theorem offerAll_held {c : Config} {p : List Byte × List Byte} (bs : List Byte) (h : c.rxqOverflow ≠ .stall) :
    (offerAll c p bs).2 = p.2 := by
  induction bs generalizing p with
  | nil => rfl
  | cons b bs ih =>
    rw [offerAll, ih]
    unfold offer
    split
    · rfl
    · split <;> simp_all

/-- With room for all of them, arriving bytes join the queue in order and none is held back. -/
theorem offerAll_room {c : Config} {p : List Byte × List Byte} {bs : List Byte}
    (h : p.1.length + bs.length ≤ c.rxqDepth) : offerAll c p bs = (p.1 ++ bs, p.2) := by
  induction bs generalizing p with
  | nil => simp [offerAll]
  | cons b bs ih =>
    have hb : p.1.length < c.rxqDepth := by simp at h; omega
    rw [offerAll, offer, if_pos hb, ih (by simp at h ⊢; omega)]
    simp

theorem arrive_room {s : State} {bs : List Byte} (hh : s.held = []) (h : s.rxq.length + bs.length ≤ s.cfg.rxqDepth) :
    arrive bs s = { s with rxq := s.rxq ++ bs } := by
  unfold arrive
  rw [hh, List.nil_append, offerAll_room (by simpa using h), ← hh]

theorem arrive_nil {s : State} (hh : s.held = []) : arrive [] s = s := by
  cases s
  simp_all [arrive, offerAll]

/-! ## The schedule -/

theorem takeInput_cons {s : State} {i : CycleInput} {is : List CycleInput} (h : s.inputs = i :: is) :
    takeInput s = (i, { s with inputs := is }) := by
  simp [takeInput, h]

theorem takeInput_nil {s : State} (h : s.inputs = []) :
    takeInput s = (freeInput s.cfg s.draws, { s with draws := s.draws + 1 }) := by
  simp [takeInput, h]

/-- Taking the input changes nothing but the schedule and the draw counter. -/
theorem takeInput_state (s : State) : ∃ is k, (takeInput s).2 = { s with inputs := is, draws := k } := by
  unfold takeInput
  split
  · exact ⟨_, s.draws, rfl⟩
  · exact ⟨s.inputs, _, rfl⟩

theorem freeInput_wellTyped (c : Config) (k : Nat) : (freeInput c k).wellTyped c = true := by
  simp [CycleInput.wellTyped, freeInput, Config.timeModulus, Nat.mod_lt _ (Nat.two_pow_pos _)]

/-! ## Sequencing -/

@[simp] theorem andThen_next (s : State) (f : State → Result) : Result.andThen (.next s) f = f s := rfl

@[simp] theorem andThen_fault (e : Fault) (f : State → Result) : Result.andThen (.fault e) f = .fault e := rfl

@[simp] theorem andThen_refused (e : Refusal) (f : State → Result) : Result.andThen (.refused e) f = .refused e := rfl

end Sys2Proof.Machine
end

