-- ==== Sys2Proof/Laws/Cycle.lean ====
section
/-!
SUPPORT. What the slots of one core cycle can do, once: the four reachable combinations of R77 and the reset cycle. Statements about
cycles are derived from these.
-/

namespace Sys2Proof.Machine

/-! ## The slots, one by one -/

theorem rxSlot_noByte {w : RxWord} {s : State} (hv : rxValid w = false) : rxSlot w s = execNoByte s := by
  simp [rxSlot, decodeRxw, hv, exec]

theorem rxSlot_byte {w : RxWord} {s : State} (hv : rxValid w = true) (hc : s.cursor < s.cfg.frameBytes) :
    rxSlot w s =
      .next { s with fb := Memory.write s.fb s.cursor (rxData w), lastT := s.now, n := s.cursor + 1,
                     complete := completesFrame s.cfg (s.cursor + 1), rxPop := true } := by
  simp only [rxSlot, decodeRxw, hv, if_true, exec, execAcceptByte, memWrite, byteAddress, hc]
  rfl

theorem rxSlot_outside {w : RxWord} {s : State} (hv : rxValid w = true) (hc : ¬ s.cursor < s.cfg.frameBytes) :
    rxSlot w s = .fault (.noSuchAddress s.cursor) := by
  simp only [rxSlot, decodeRxw, hv, if_true, exec, execAcceptByte, memWrite, byteAddress, hc, if_false]

theorem livenessSlot_active {s : State} (hs : isStale s = false) : livenessSlot s = execLiveActive s := by
  simp [livenessSlot, hs, exec]

theorem livenessSlot_stale {s : State} (hs : isStale s = true) : livenessSlot s = execLiveStale s := by
  simp [livenessSlot, hs, exec]

theorem frameSlot_none {s : State} (hc : s.complete = false) : frameSlot s = execFrameNone s := by
  simp [frameSlot, hc, exec]

theorem frameSlot_complete {s : State} (hc : s.complete = true) : frameSlot s = execFrameComplete s := by
  simp [frameSlot, hc, exec]

/-! ## The three slots -/

/-- No byte, link active: only the indicator, the strobes and the trace are written. -/
theorem runSlots_noByte_active {w : RxWord} {s : State} (hv : rxValid w = false)
    (hs : staleAt s.cfg s.now s.lastT = false) :
    runSlots w s = .next { s with ind := true, rxPop := false, rxFlush := false, now := 0, n := 0, complete := false,
                                  indTrace := s.indTrace ++ [true] } := by
  rw [runSlots, rxSlot_noByte hv, execNoByte, andThen_next, livenessSlot_active, execLiveActive, andThen_next,
    frameSlot_none]
  · rfl
  · rfl
  · exact hs

/-- No byte, link stale: the buffer is blanked and presented. -/
theorem runSlots_noByte_stale {w : RxWord} {s : State} (hv : rxValid w = false)
    (hs : staleAt s.cfg s.now s.lastT = true) :
    runSlots w s = .next { s with fb := Memory.blank, ind := false, rxPop := false, rxFlush := false, now := 0, n := 0,
                                  complete := false,
                                  presents := s.presents ++ [⟨.blank, List.replicate s.cfg.frameBytes 0#8, s.now⟩],
                                  indTrace := s.indTrace ++ [false] } := by
  rw [runSlots, rxSlot_noByte hv, execNoByte, andThen_next, livenessSlot_stale, execLiveStale, andThen_next,
    frameSlot_none, ← Memory.snapshot_blank]
  · rfl
  · rfl
  · exact hs

/-- A byte that does not complete the frame: it is stored at the cursor, which moves on by one. -/
theorem runSlots_byte_none {w : RxWord} {s : State} (hv : rxValid w = true) (hc : s.cursor < s.cfg.frameBytes)
    (hn : s.cursor + 1 ≠ s.cfg.frameBytes) :
    runSlots w s = .next { s with fb := Memory.write s.fb s.cursor (rxData w), cursor := s.cursor + 1, lastT := s.now,
                                  ind := true, rxPop := true, rxFlush := false, now := 0, n := 0, complete := false,
                                  indTrace := s.indTrace ++ [true] } := by
  have h : completesFrame s.cfg (s.cursor + 1) = false := by simp [completesFrame, hn]
  rw [runSlots, rxSlot_byte hv hc, andThen_next, livenessSlot_active, execLiveActive, andThen_next,
    frameSlot_none]
  · rfl
  · exact h
  · exact staleAt_self _ _

/-- A byte that completes the frame: it is stored, the frame presented, the cursor set to 0, the queue drained. -/
theorem runSlots_byte_complete {w : RxWord} {s : State} (hv : rxValid w = true) (hn : s.cursor + 1 = s.cfg.frameBytes) :
    runSlots w s =
      .next { s with fb := Memory.write s.fb s.cursor (rxData w), cursor := 0, lastT := s.now, ind := true, rxPop := true,
                     rxFlush := true, now := 0, n := 0, complete := false, rxq := [],
                     presents := s.presents ++
                       [⟨.frame, Memory.snapshot s.cfg.frameBytes (Memory.write s.fb s.cursor (rxData w)), s.now⟩],
                     indTrace := s.indTrace ++ [true] } := by
  have h : completesFrame s.cfg (s.cursor + 1) = true := by simp [completesFrame, hn]
  rw [runSlots, rxSlot_byte hv (by omega), andThen_next, livenessSlot_active, execLiveActive, andThen_next,
    frameSlot_complete]
  · rfl
  · exact h
  · exact staleAt_self _ _

/-- A byte with the cursor outside the buffer: the write faults. -/
theorem runSlots_byte_outside {w : RxWord} {s : State} (hv : rxValid w = true) (hc : ¬ s.cursor < s.cfg.frameBytes) :
    runSlots w s = .fault (.noSuchAddress s.cursor) := by
  rw [runSlots, rxSlot_outside hv hc, andThen_fault]

/-- What the three slots can answer: nothing is refused, and a fault is the write outside the buffer. -/
theorem runSlots_cases (w : RxWord) (s : State) :
    (rxValid w = false ∧ staleAt s.cfg s.now s.lastT = false ∧
      runSlots w s = .next { s with ind := true, rxPop := false, rxFlush := false, now := 0, n := 0, complete := false,
                                    indTrace := s.indTrace ++ [true] }) ∨
    (rxValid w = false ∧ staleAt s.cfg s.now s.lastT = true ∧
      runSlots w s = .next { s with fb := Memory.blank, ind := false, rxPop := false, rxFlush := false, now := 0, n := 0,
                                    complete := false,
                                    presents := s.presents ++ [⟨.blank, List.replicate s.cfg.frameBytes 0#8, s.now⟩],
                                    indTrace := s.indTrace ++ [false] }) ∨
    (rxValid w = true ∧ s.cursor + 1 < s.cfg.frameBytes ∧
      runSlots w s = .next { s with fb := Memory.write s.fb s.cursor (rxData w), cursor := s.cursor + 1, lastT := s.now,
                                    ind := true, rxPop := true, rxFlush := false, now := 0, n := 0, complete := false,
                                    indTrace := s.indTrace ++ [true] }) ∨
    (rxValid w = true ∧ s.cursor + 1 = s.cfg.frameBytes ∧
      runSlots w s =
        .next { s with fb := Memory.write s.fb s.cursor (rxData w), cursor := 0, lastT := s.now, ind := true,
                       rxPop := true, rxFlush := true, now := 0, n := 0, complete := false, rxq := [],
                       presents := s.presents ++
                         [⟨.frame, Memory.snapshot s.cfg.frameBytes (Memory.write s.fb s.cursor (rxData w)), s.now⟩],
                       indTrace := s.indTrace ++ [true] }) ∨
    (rxValid w = true ∧ ¬ s.cursor < s.cfg.frameBytes ∧ runSlots w s = .fault (.noSuchAddress s.cursor)) := by
  cases hv : rxValid w with
  | false =>
    cases hs : staleAt s.cfg s.now s.lastT with
    | false => exact .inl ⟨rfl, rfl, runSlots_noByte_active hv hs⟩
    | true => exact .inr (.inl ⟨rfl, rfl, runSlots_noByte_stale hv hs⟩)
  | true =>
    by_cases hc : s.cursor < s.cfg.frameBytes
    · by_cases hn : s.cursor + 1 = s.cfg.frameBytes
      · exact .inr (.inr (.inr (.inl ⟨rfl, hn, runSlots_byte_complete hv hn⟩)))
      · exact .inr (.inr (.inl ⟨rfl, by omega, runSlots_byte_none hv hc hn⟩))
    · exact .inr (.inr (.inr (.inr ⟨rfl, hc, runSlots_byte_outside hv hc⟩)))

/-! ## Cycles and steps -/

/-- A reset cycle of the block (R190). -/
theorem blockCycle_reset {c : Cin} {s : State} (h : c.rst = true) :
    blockCycle c s =
      .next { s with fb := Memory.blank, cursor := 0, lastT := c.now, ind := s.cfg.indAtReset, rxPop := false,
                     rxFlush := false, now := 0, n := 0, complete := false } := by
  simp only [blockCycle, decodeRst_rstSelector, h, if_true]
  rfl

/-- A running cycle of the block is its three slots (R76). -/
theorem blockCycle_run {c : Cin} {s : State} (h : c.rst = false) :
    blockCycle c s = runSlots c.rxw (openCycle c.now s) := by
  simp [blockCycle, h]

/-- A step of an admitted configuration runs the cycle of the next input record. -/
theorem step_of_admitted {s : State} (h : s.cfg.admitted = true) :
    step s = inputCycle (takeInput s).1 (takeInput s).2 := by
  simp [step, coreCycle, h]

/-- A well-typed reset record: the arrivals, then RESET. -/
theorem inputCycle_reset {i : CycleInput} {s : State} (ht : i.wellTyped s.cfg = true) (hr : i.rst = true) :
    inputCycle i s = blockCycle ⟨true, i.now, rxNone 0#8⟩ (arrive i.arrivals s) := by
  simp [inputCycle, ht, formCin, hr]

/-- A well-typed running record that finds the queue empty. -/
theorem inputCycle_empty {i : CycleInput} {s : State} (ht : i.wellTyped s.cfg = true) (hr : i.rst = false)
    (hq : (arrive i.arrivals s).rxq = []) :
    inputCycle i s = runSlots (rxNone i.bus) (openCycle i.now (arrive i.arrivals s)) := by
  simp only [inputCycle, ht, if_true, formCin, hr, rxPoll_empty _ hq]
  exact blockCycle_run rfl

/-- A well-typed running record that finds the byte `b` at the head of the queue. -/
theorem inputCycle_cons {i : CycleInput} {s : State} {b : Byte} {q : List Byte} (ht : i.wellTyped s.cfg = true)
    (hr : i.rst = false) (hq : (arrive i.arrivals s).rxq = b :: q) :
    inputCycle i s = runSlots (rxSome b) (openCycle i.now { arrive i.arrivals s with rxq := q }) := by
  simp only [inputCycle, ht, if_true, formCin, hr, rxPoll_cons _ hq]
  exact blockCycle_run rfl

end Sys2Proof.Machine
end

