-- ==== Sys2Proof/Laws/Boundary.lean ====
section
/-!
SUPPORT. A step seen from the boundary it starts at: what the arrivals leave alone, and the step of each kind of cycle.
-/

namespace Sys2Proof.Machine

/-! ## The state at the start of the cycle -/

@[simp] theorem arrived_cfg (s : State) : (arrived s).cfg = s.cfg := by unfold arrived takeInput; split <;> rfl
@[simp] theorem arrived_fb (s : State) : (arrived s).fb = s.fb := by unfold arrived takeInput; split <;> rfl
@[simp] theorem arrived_cursor (s : State) : (arrived s).cursor = s.cursor := by unfold arrived takeInput; split <;> rfl
@[simp] theorem arrived_lastT (s : State) : (arrived s).lastT = s.lastT := by unfold arrived takeInput; split <;> rfl
@[simp] theorem arrived_ind (s : State) : (arrived s).ind = s.ind := by unfold arrived takeInput; split <;> rfl
@[simp] theorem arrived_rxPop (s : State) : (arrived s).rxPop = s.rxPop := by unfold arrived takeInput; split <;> rfl
@[simp] theorem arrived_rxFlush (s : State) : (arrived s).rxFlush = s.rxFlush := by
  unfold arrived takeInput; split <;> rfl
@[simp] theorem arrived_now (s : State) : (arrived s).now = s.now := by unfold arrived takeInput; split <;> rfl
@[simp] theorem arrived_n (s : State) : (arrived s).n = s.n := by unfold arrived takeInput; split <;> rfl
@[simp] theorem arrived_complete (s : State) : (arrived s).complete = s.complete := by
  unfold arrived takeInput; split <;> rfl
@[simp] theorem arrived_presents (s : State) : (arrived s).presents = s.presents := by
  unfold arrived takeInput; split <;> rfl
@[simp] theorem arrived_indTrace (s : State) : (arrived s).indTrace = s.indTrace := by
  unfold arrived takeInput; split <;> rfl

theorem arrived_inputs (s : State) : (arrived s).inputs = s.inputs.tail := by
  unfold arrived takeInput
  split
  · next h => rw [h]; rfl
  · next h => simp [h]

theorem arrived_rxq_length {s : State} (h : BoundaryInv s) : (arrived s).rxq.length ≤ s.cfg.rxqDepth := by
  have hd : 1 ≤ s.cfg.rxqDepth := by
    have := h.admitted
    simp only [Config.admitted, Bool.and_eq_true, decide_eq_true_eq] at this
    exact this.2
  have hq := h.queueInDepth
  unfold arrived takeInput
  split <;> exact offerAll_length _ hd hq

theorem arrived_held {s : State} (h : s.cfg.rxqOverflow ≠ .stall) : (arrived s).held = [] := by
  unfold arrived takeInput
  split <;> exact offerAll_held _ h

/-! ## The step of each kind of cycle -/

/-- A step that answers a next state ran an admitted configuration on a well-typed record. -/
theorem admitted_of_step {s t : State} (h : step s = .next t) : s.cfg.admitted = true ∧ nextTyped s := by
  unfold step coreCycle at h
  split at h
  · next ha =>
    refine ⟨ha, ?_⟩
    simp only [inputCycle] at h
    split at h
    · next ht =>
      have hc : (takeInput s).2.cfg = s.cfg := by obtain ⟨is, k, e⟩ := takeInput_state s; rw [e]
      rwa [hc] at ht
    · cases h
  · cases h

theorem step_of_typed {s : State} (ha : s.cfg.admitted = true) (ht : nextTyped s) :
    step s = blockCycle (formCin (nextInput s) (arrived s)).1 (formCin (nextInput s) (arrived s)).2 := by
  have hc : (takeInput s).2.cfg = s.cfg := by obtain ⟨is, k, e⟩ := takeInput_state s; rw [e]
  have ht' : CycleInput.wellTyped (takeInput s).2.cfg (takeInput s).1 = true := by rw [hc]; exact ht
  rw [step_of_admitted ha, inputCycle, if_pos ht']
  rfl

/-- The step of a reset cycle (R190). -/
theorem step_reset {s : State} (ha : s.cfg.admitted = true) (ht : nextTyped s) (hr : resets s = true) :
    step s =
      .next { arrived s with fb := Memory.blank, cursor := 0, lastT := (nextInput s).now, ind := s.cfg.indAtReset,
                             rxPop := false, rxFlush := false, now := 0, n := 0, complete := false } := by
  have hr' : (nextInput s).rst = true := hr
  rw [step_of_typed ha ht, formCin, if_pos hr', blockCycle_reset rfl]
  simp

/-- The step of a running cycle that finds no byte. -/
theorem step_empty {s : State} (ha : s.cfg.admitted = true) (ht : nextTyped s) (hr : resets s = false)
    (hq : (arrived s).rxq = []) :
    step s = runSlots (rxNone (nextInput s).bus) (openCycle (nextInput s).now (arrived s)) := by
  have hr' : ¬ (nextInput s).rst = true := by rw [show (nextInput s).rst = false from hr]; decide
  rw [step_of_typed ha ht, formCin, if_neg hr', blockCycle_run rfl, rxPoll_empty _ hq]

/-- The step of a running cycle that finds the byte `b`. -/
theorem step_cons {s : State} {b : Byte} {q : List Byte} (ha : s.cfg.admitted = true) (ht : nextTyped s)
    (hr : resets s = false) (hq : (arrived s).rxq = b :: q) :
    step s = runSlots (rxSome b) (openCycle (nextInput s).now { arrived s with rxq := q }) := by
  have hr' : ¬ (nextInput s).rst = true := by rw [show (nextInput s).rst = false from hr]; decide
  rw [step_of_typed ha ht, formCin, if_neg hr', blockCycle_run rfl, rxPoll_cons _ hq]

/-- No byte, link active. -/
theorem step_idle_active {s : State} (ha : s.cfg.admitted = true) (ht : nextTyped s) (hr : resets s = false)
    (hq : (arrived s).rxq = []) (hs : staleAt s.cfg (nextInput s).now s.lastT = false) :
    step s = .next { arrived s with ind := true, rxPop := false, rxFlush := false, now := 0, n := 0, complete := false,
                                    indTrace := s.indTrace ++ [true] } := by
  rw [step_empty ha ht hr hq, runSlots_noByte_active (rxValid_rxNone _) (by simpa using hs)]
  simp

/-- No byte, link stale. -/
theorem step_idle_stale {s : State} (ha : s.cfg.admitted = true) (ht : nextTyped s) (hr : resets s = false)
    (hq : (arrived s).rxq = []) (hs : staleAt s.cfg (nextInput s).now s.lastT = true) :
    step s =
      .next { arrived s with fb := Memory.blank, ind := false, rxPop := false, rxFlush := false, now := 0, n := 0,
                             complete := false,
                             presents := s.presents ++
                               [⟨.blank, List.replicate s.cfg.frameBytes 0#8, (nextInput s).now⟩],
                             indTrace := s.indTrace ++ [false] } := by
  rw [step_empty ha ht hr hq, runSlots_noByte_stale (rxValid_rxNone _) (by simpa using hs)]
  simp

/-- A byte that does not complete the frame. -/
theorem step_byte_none {s : State} {b : Byte} {q : List Byte} (ha : s.cfg.admitted = true) (ht : nextTyped s)
    (hr : resets s = false) (hq : (arrived s).rxq = b :: q) (hn : s.cursor + 1 < s.cfg.frameBytes) :
    step s =
      .next { arrived s with fb := Memory.write s.fb s.cursor b, cursor := s.cursor + 1, lastT := (nextInput s).now,
                             ind := true, rxPop := true, rxFlush := false, now := 0, n := 0, complete := false, rxq := q,
                             indTrace := s.indTrace ++ [true] } := by
  rw [step_cons ha ht hr hq, runSlots_byte_none (rxValid_rxSome _) (by simp; omega) (by simp; omega)]
  simp

/-- A byte that completes the frame. -/
theorem step_byte_complete {s : State} {b : Byte} {q : List Byte} (ha : s.cfg.admitted = true) (ht : nextTyped s)
    (hr : resets s = false) (hq : (arrived s).rxq = b :: q) (hn : s.cursor + 1 = s.cfg.frameBytes) :
    step s =
      .next { arrived s with fb := Memory.write s.fb s.cursor b, cursor := 0, lastT := (nextInput s).now, ind := true,
                             rxPop := true, rxFlush := true, now := 0, n := 0, complete := false, rxq := [],
                             presents := s.presents ++
                               [⟨.frame, Memory.snapshot s.cfg.frameBytes (Memory.write s.fb s.cursor b),
                                 (nextInput s).now⟩],
                             indTrace := s.indTrace ++ [true] } := by
  rw [step_cons ha ht hr hq, runSlots_byte_complete (rxValid_rxSome _) (by simpa using hn)]
  simp

/-- A byte with the cursor outside the buffer. -/
theorem step_byte_outside {s : State} {b : Byte} {q : List Byte} (ha : s.cfg.admitted = true) (ht : nextTyped s)
    (hr : resets s = false) (hq : (arrived s).rxq = b :: q) (hc : ¬ s.cursor < s.cfg.frameBytes) :
    step s = .fault (.noSuchAddress s.cursor) := by
  rw [step_cons ha ht hr hq, runSlots_byte_outside (rxValid_rxSome _) (by simpa using hc)]
  simp

/-- What a step from a state with the cursor in range does, once: a reset cycle, or one of the four combinations of R77. -/
theorem step_cases {s : State} (ha : s.cfg.admitted = true) (hc : s.cursor < s.cfg.frameBytes) (ht : nextTyped s) :
    (resets s = true ∧
      step s =
        .next { arrived s with fb := Memory.blank, cursor := 0, lastT := (nextInput s).now, ind := s.cfg.indAtReset,
                               rxPop := false, rxFlush := false, now := 0, n := 0, complete := false }) ∨
    (resets s = false ∧ (arrived s).rxq = [] ∧ staleAt s.cfg (nextInput s).now s.lastT = false ∧
      step s = .next { arrived s with ind := true, rxPop := false, rxFlush := false, now := 0, n := 0, complete := false,
                                      indTrace := s.indTrace ++ [true] }) ∨
    (resets s = false ∧ (arrived s).rxq = [] ∧ staleAt s.cfg (nextInput s).now s.lastT = true ∧
      step s =
        .next { arrived s with fb := Memory.blank, ind := false, rxPop := false, rxFlush := false, now := 0, n := 0,
                               complete := false,
                               presents := s.presents ++
                                 [⟨.blank, List.replicate s.cfg.frameBytes 0#8, (nextInput s).now⟩],
                               indTrace := s.indTrace ++ [false] }) ∨
    (∃ b q, resets s = false ∧ (arrived s).rxq = b :: q ∧ s.cursor + 1 < s.cfg.frameBytes ∧
      step s =
        .next { arrived s with fb := Memory.write s.fb s.cursor b, cursor := s.cursor + 1, lastT := (nextInput s).now,
                               ind := true, rxPop := true, rxFlush := false, now := 0, n := 0, complete := false,
                               rxq := q, indTrace := s.indTrace ++ [true] }) ∨
    (∃ b q, resets s = false ∧ (arrived s).rxq = b :: q ∧ s.cursor + 1 = s.cfg.frameBytes ∧
      step s =
        .next { arrived s with fb := Memory.write s.fb s.cursor b, cursor := 0, lastT := (nextInput s).now, ind := true,
                               rxPop := true, rxFlush := true, now := 0, n := 0, complete := false, rxq := [],
                               presents := s.presents ++
                                 [⟨.frame, Memory.snapshot s.cfg.frameBytes (Memory.write s.fb s.cursor b),
                                   (nextInput s).now⟩],
                               indTrace := s.indTrace ++ [true] }) := by
  cases hr : resets s
  · cases hq : (arrived s).rxq with
    | nil =>
      cases hs : staleAt s.cfg (nextInput s).now s.lastT
      · exact .inr (.inl ⟨rfl, rfl, rfl, by simpa [hq] using step_idle_active ha ht hr hq hs⟩)
      · exact .inr (.inr (.inl ⟨rfl, rfl, rfl, by simpa [hq] using step_idle_stale ha ht hr hq hs⟩))
    | cons b q =>
      by_cases hn : s.cursor + 1 = s.cfg.frameBytes
      · exact .inr (.inr (.inr (.inr ⟨b, q, rfl, rfl, hn, step_byte_complete ha ht hr hq hn⟩)))
      · exact .inr (.inr (.inr (.inl ⟨b, q, rfl, rfl, by omega, step_byte_none ha ht hr hq (by omega)⟩)))
  · exact .inl ⟨rfl, step_reset ha ht hr⟩

/-! ## Runs -/

/-- A run of `k + 1` cycles is a step and then a run of `k`. -/
theorem run_succ_of_step {s t : State} (k : Nat) (h : step s = .next t) :
    Host.Core.run Sys2Proof.core (k + 1) s = Host.Core.run Sys2Proof.core k t := by
  have h' : Sys2Proof.core.step s = .next t := h
  simp only [Host.Core.run]
  rw [h']

/-- A run of two stretches is the one and then the other. -/
theorem run_add {s t : State} (j k : Nat) (h : Host.Core.run Sys2Proof.core j s = .next t) :
    Host.Core.run Sys2Proof.core (j + k) s = Host.Core.run Sys2Proof.core k t := by
  induction j generalizing s with
  | zero =>
    cases h
    rw [Nat.zero_add]
  | succ j ih =>
    cases hs : step s with
    | next u =>
      rw [run_succ_of_step j hs] at h
      rw [Nat.add_right_comm, run_succ_of_step (j + k) hs]
      exact ih h
    | fault e =>
      have h' : Sys2Proof.core.step s = .fault e := hs
      simp only [Host.Core.run] at h
      rw [h'] at h
      cases h
    | refused e =>
      have h' : Sys2Proof.core.step s = .refused e := hs
      simp only [Host.Core.run] at h
      rw [h'] at h
      cases h

end Sys2Proof.Machine
end

