-- ==== Sys2Proof/Laws/PerInstr.lean ====
section
/-!
SUPPORT. One lemma per operation for the statements made per operation.
-/

namespace Sys2Proof.Laws.TableRow

/-- The word of an operation shows the selecting bits of its row of the opcode table, in the row's format. -/
abbrev Statement (i : Instr) : Prop :=
  (encode i).bits &&& i.tableMask = i.tableMatch ∧ (encode i).format = i.format ∧ (encode i).bits < 2 ^ i.format.width

theorem reset : Statement .reset := by decide

theorem acceptByte (d : Byte) : Statement (.acceptByte d) := by
  revert d
  decide

theorem noByte : Statement .noByte := by decide

theorem liveActive : Statement .liveActive := by decide

theorem liveStale : Statement .liveStale := by decide

theorem frameNone : Statement .frameNone := by decide

theorem frameComplete : Statement .frameComplete := by decide

end Sys2Proof.Laws.TableRow
end

