-- ==== Sys2Proof/Laws/Stretch.lean ====
section
/-!
SUPPORT. The laws of stretches of cycles: what the first cycle of a calm stretch gives, how a last cycle is split off, and how many
bytes a stretch takes.
-/

namespace Sys2Proof.Machine

@[simp] theorem arrivedBytes_nil : arrivedBytes [] = [] := rfl

@[simp] theorem arrivedBytes_cons (i : CycleInput) (is : List CycleInput) :
    arrivedBytes (i :: is) = i.arrivals ++ arrivedBytes is := rfl

@[simp] theorem arrivedBytes_append (is js : List CycleInput) :
    arrivedBytes (is ++ js) = arrivedBytes is ++ arrivedBytes js := by simp [arrivedBytes]

@[simp] theorem taken_nil (w : Nat) : taken w [] = 0 := rfl

theorem taken_cons_zero {w : Nat} {i : CycleInput} {is : List CycleInput} (h : w + i.arrivals.length = 0) :
    taken w (i :: is) = taken 0 is := if_pos h

theorem taken_cons_pos {w : Nat} {i : CycleInput} {is : List CycleInput} (h : w + i.arrivals.length ≠ 0) :
    taken w (i :: is) = taken (w + i.arrivals.length - 1) is + 1 := if_neg h

/-- A stretch takes no byte that was not waiting and did not arrive. -/
theorem taken_le (w : Nat) (is : List CycleInput) : taken w is ≤ w + (arrivedBytes is).length := by
  induction is generalizing w with
  | nil => simp
  | cons i is ih =>
    rw [arrivedBytes_cons, List.length_append]
    by_cases h : w + i.arrivals.length = 0
    · rw [taken_cons_zero h]; have := ih 0; omega
    · rw [taken_cons_pos h]; have := ih (w + i.arrivals.length - 1); omega

/-- The last cycle of a stretch starts with the bytes that the cycles before it have left. -/
theorem taken_snoc (w : Nat) (is : List CycleInput) (i : CycleInput) :
    taken w (is ++ [i]) = taken w is + taken (w + (arrivedBytes is).length - taken w is) [i] := by
  induction is generalizing w with
  | nil => simp
  | cons j is ih =>
    rw [List.cons_append, arrivedBytes_cons, List.length_append]
    by_cases h : w + j.arrivals.length = 0
    · rw [taken_cons_zero h, taken_cons_zero h, ih, ← Nat.add_assoc, h]
    · rw [taken_cons_pos h, taken_cons_pos h, ih, Nat.add_right_comm,
        show w + (j.arrivals.length + (arrivedBytes is).length) - (taken (w + j.arrivals.length - 1) is + 1) =
          w + j.arrivals.length - 1 + (arrivedBytes is).length - taken (w + j.arrivals.length - 1) is by omega]

/-- What a calm stretch says of its first cycle and of the rest. -/
theorem calm_cons_iff {c : Config} {last w : Nat} {i : CycleInput} {is : List CycleInput} :
    calm c last w (i :: is) = true ↔
      i.rst = false ∧ i.wellTyped c = true ∧ (c.rxqOverflow = .stall ∨ w + i.arrivals.length ≤ c.rxqDepth) ∧
        if w + i.arrivals.length = 0 then staleAt c i.now last = false ∧ calm c last 0 is = true
        else calm c i.now (w + i.arrivals.length - 1) is = true := by
  rw [calm]
  split <;> simp [and_assoc]

/-- A calm stretch is calm up to its last cycle, and that cycle is calm from some timestamp on. -/
theorem calm_snoc {c : Config} {last w : Nat} {is : List CycleInput} {i : CycleInput}
    (h : calm c last w (is ++ [i]) = true) :
    calm c last w is = true ∧ ∃ l, calm c l (w + (arrivedBytes is).length - taken w is) [i] = true := by
  induction is generalizing last w with
  | nil => exact ⟨rfl, last, by simpa using h⟩
  | cons j is ih =>
    obtain ⟨hr, ht, hroom, h⟩ := calm_cons_iff.mp h
    by_cases hw : w + j.arrivals.length = 0
    · rw [if_pos hw] at h
      obtain ⟨hc, l, hl⟩ := ih h.2
      refine ⟨calm_cons_iff.mpr ⟨hr, ht, hroom, by rw [if_pos hw]; exact ⟨h.1, hc⟩⟩, l, ?_⟩
      rw [taken_cons_zero hw, arrivedBytes_cons, List.length_append, ← Nat.add_assoc, hw]
      exact hl
    · rw [if_neg hw] at h
      obtain ⟨hc, l, hl⟩ := ih h
      refine ⟨calm_cons_iff.mpr ⟨hr, ht, hroom, by rw [if_neg hw]; exact hc⟩, l, ?_⟩
      rw [taken_cons_pos hw, arrivedBytes_cons, List.length_append]
      rwa [show w + (j.arrivals.length + (arrivedBytes is).length) - (taken (w + j.arrivals.length - 1) is + 1) =
        w + j.arrivals.length - 1 + (arrivedBytes is).length - taken (w + j.arrivals.length - 1) is by omega]

end Sys2Proof.Machine
end

