-- ==== Sys2Proof/Tests/Slice0.lean ====
section
/-!
SUPPORT. Tests: ill-formed terms refused, words written out from the opcode map decoded, the spec's worked examples and vectors (one
step each), and for each statement of the obligations that has hypotheses a state that meets them.
-/

namespace Sys2Proof.Tests

open Sys2Proof Sys2Proof.Machine

/-! ## Helpers -/

/-- CFG6 of 95_test_vectors.md: W = 1, H = 2, T_MS = 1000, TIME_W = 32. -/
def cfg6 : Config := { Config.default with gridW := 1, gridH := 2 }

/-- A boundary state of configuration `c` with the next input record `i`. -/
def stateOf (c : Config) (fb : Memory) (cursor last : Nat) (rxq : List Byte) (i : CycleInput) : State :=
  { State.reset with cfg := c, fb := fb, cursor := cursor, lastT := last, rxq := rxq, inputs := [i] }

/-- A running cycle at time `t` before which nothing arrives. -/
def at_ (t : Nat) : CycleInput := quietInput t 0#8

/-- A reset cycle at time `t`. -/
def resetAt (t : Nat) : CycleInput := { quietInput t 0#8 with rst := true }

/-- What a projection reads in the next state, if there is one. -/
def after (r : Result) (f : State → α) : Option α :=
  match r with
  | .next t => some (f t)
  | .fault _ => none
  | .refused _ => none

/-! ## WellFormed: each check refuses an ill-formed term -/

theorem test_config_default_admitted : Config.default.admitted = true := by decide
theorem test_config_no_width : { cfg6 with gridW := 0 }.admitted = false := by decide
theorem test_config_no_height : { cfg6 with gridH := 0 }.admitted = false := by decide
theorem test_config_no_time : { cfg6 with timeW := 0, tMs := 0 }.admitted = false := by decide
/-- 95_test_vectors.md, configuration note: T = 14 with TIME_W = 4 is admitted, T = 15 is refused. -/
theorem test_config_threshold_bound :
    { cfg6 with timeW := 4, tMs := 14 }.admitted = true ∧ { cfg6 with timeW := 4, tMs := 15 }.admitted = false := by decide
theorem test_config_no_queue : { cfg6 with rxqDepth := 0 }.admitted = false := by decide
theorem test_input_time_too_wide :
    (at_ (2 ^ 32)).wellTyped cfg6 = false ∧ (at_ (2 ^ 32 - 1)).wellTyped cfg6 = true := by decide
theorem test_cin_time_too_wide : Cin.wellTyped cfg6 ⟨false, 2 ^ 32, 0#9⟩ = false := by decide
theorem test_instr_wellFormed : (Instr.acceptByte 0xFF#8).wellFormed = true := by decide
/-- 95_test_vectors.md section 2.6. -/
theorem test_selectors_unreachable :
    reachableSelectors false false true = false ∧ reachableSelectors false true true = false ∧
    reachableSelectors true true false = false ∧ reachableSelectors true true true = false := by decide
theorem test_step_refuses_config :
    after (step { stateOf cfg6 [] 0 0 [] (at_ 1) with cfg := { cfg6 with gridW := 0 } }) (fun _ => ()) = none := by decide

/-! ## Decoding words written out from the opcode map (R77) -/

theorem test_decode_reset : decodeBytes .rst [0b00000001#8] = .ok .reset := by decide
theorem test_decode_accept : decodeBytes .rxw [0b10100101#8, 0b00000001#8] = .ok (.acceptByte 0xA5#8) := by decide
theorem test_decode_no_byte : decodeBytes .rxw [0b11111111#8, 0b00000000#8] = .ok .noByte := by decide
theorem test_decode_active : decodeBytes .lvs [0b00000000#8] = .ok .liveActive := by decide
theorem test_decode_stale : decodeBytes .lvs [0b00000001#8] = .ok .liveStale := by decide
theorem test_decode_frame_none : decodeBytes .fcs [0b00000000#8] = .ok .frameNone := by decide
theorem test_decode_frame_complete : decodeBytes .fcs [0b00000001#8] = .ok .frameComplete := by decide
theorem test_decode_refusals :
    decodeBytes .rst [0#8] = .error .slotsRun ∧ decodeBytes .lvs [] = .error .wrongLength ∧
    decodeBytes .fcs [2#8] = .error .bitsAboveFormat ∧ decodeBytes .rxw [0#8, 2#8] = .error .bitsAboveFormat := by decide
theorem test_decode_table_word :
    decodeTableWord 16 0x1A5 = some (.acceptByte 0xA5#8) ∧ decodeTableWord 16 0x000 = some .noByte ∧
    decodeTableWord 8 1 = some .reset ∧ decodeTableWord 8 0 = some .liveActive := by decide

/-! ## Operations: the spec's examples -/

/-- R102, example. -/
theorem test_accept_example :
    after (exec (.acceptByte 0xA5#8) { stateOf cfg6 [] 2 0 [] (at_ 0) with now := 0x64 })
      (fun t => (t.fb, t.lastT, t.n, t.complete, t.cursor, t.rxPop)) =
    some ([(2, 0xA5#8)], 0x64, 3, false, 2, true) := by decide

/-- Vector RX4: the last byte of a frame, in a whole cycle. -/
theorem test_accept_last_byte :
    after (step (stateOf cfg6 [(0, 0x10#8), (1, 0x20#8), (2, 0x30#8), (3, 0x40#8), (4, 0x50#8)] 5 5 [0x60#8] (at_ 6)))
      (fun t => (t.cursor, t.lastT, t.ind, t.presents, t.rxPop, t.rxFlush)) =
    some (0, 6, true, [⟨.frame, [0x10#8, 0x20#8, 0x30#8, 0x40#8, 0x50#8, 0x60#8], 6⟩], true, true) := by decide

/-- R106, example. -/
theorem test_no_byte_example :
    after (exec .noByte (stateOf cfg6 [] 4 0x3E8 [] (at_ 0))) (fun t => (t.n, t.complete, t.cursor, t.lastT, t.rxPop)) =
    some (4, false, 4, 0x3E8, false) := by decide

/-- Vector NB2: d is ignored. -/
theorem test_no_byte_ignores_bus :
    after (step (stateOf cfg6 [] 4 0x3E8 [] (quietInput 0x3E8 0xFF#8))) (fun t => (t.fb, t.cursor, t.lastT, t.ind)) =
    some ([], 4, 0x3E8, true) := by decide

/-- Vector LV3: elapsed 1000 is active. -/
theorem test_live_active_at_threshold :
    after (step (stateOf cfg6 [] 3 300 [] (at_ 1300))) (fun t => (t.ind, t.presents)) = some (true, []) := by decide

/-- Vector LV6: across the wrap, at the threshold. -/
theorem test_live_active_across_wrap :
    after (step (stateOf cfg6 [] 3 0xFFFFFFF0 [] (at_ 0x3D8))) (fun t => (t.ind, t.presents)) = some (true, []) := by decide

/-- R125, example. -/
theorem test_live_stale_example :
    after (step (stateOf cfg6 [(0, 0xAA#8), (1, 0xBB#8), (2, 0xCC#8)] 3 300 [] (at_ 1301)))
      (fun t => (t.ind, t.fb, t.presents, t.cursor, t.lastT)) =
    some (false, [], [⟨.blank, [0#8, 0#8, 0#8, 0#8, 0#8, 0#8], 1301⟩], 3, 300) := by decide

/-- Vector LV5: `now` one below the timestamp. -/
theorem test_live_stale_time_backwards :
    after (step (stateOf cfg6 [] 3 1000 [] (at_ 999))) (fun t => (t.ind, t.cursor)) = some (false, 3) := by decide

/-- R141, example. -/
theorem test_frame_none_example :
    after (exec .frameNone { stateOf cfg6 [] 4 0 [] (at_ 0) with n := 5 }) (fun t => (t.cursor, t.rxFlush)) =
    some (5, false) := by decide

/-- Vector FR6: the buffer is not cleared after a present. -/
theorem test_frame_none_keeps_old_frame :
    after (step (stateOf cfg6 [(0, 0x10#8), (1, 0x20#8)] 0 6 [0x99#8] (at_ 7))) (fun t => (t.fb, t.cursor, t.presents)) =
    some ([(0, 0x99#8), (1, 0x20#8)], 1, []) := by decide

/-- Vector FR5: F = 3, and the drain takes what is queued behind the last byte. -/
theorem test_frame_complete_smallest :
    after (step (stateOf { cfg6 with gridH := 1 } [(0, 1#8), (1, 2#8)] 2 8 [3#8, 4#8] (at_ 9)))
      (fun t => (t.fb, t.cursor, t.rxq, t.presents)) =
    some ([(0, 1#8), (1, 2#8), (2, 3#8)], 0, [], [⟨.frame, [1#8, 2#8, 3#8], 9⟩]) := by decide

/-- R142, example. -/
theorem test_frame_complete_example :
    after (exec .frameComplete
      { stateOf cfg6 [(0, 0x10#8), (5, 0x60#8)] 5 6 [0x70#8, 0x71#8] (at_ 0) with now := 6, n := 6, complete := true })
      (fun t => (t.presents, t.cursor, t.rxq, t.rxFlush, t.phase)) =
    some ([⟨.frame, [0x10#8, 0#8, 0#8, 0#8, 0#8, 0x60#8], 6⟩], 0, [], true, .accumulating) := by decide

/-- Vector RS1, with IND_AT_RESET active: the block state. -/
theorem test_reset_vector :
    after (step (stateOf { cfg6 with indAtReset := true } [(0, 1#8), (1, 2#8)] 4 77 [9#8] (resetAt 500)))
      (fun t => (t.fb, t.cursor, t.lastT, t.ind, t.rxq)) =
    some ([], 0, 500, true, [9#8]) := by decide

/-- R190: RESET leaves the present log. -/
theorem test_reset_keeps_log :
    after (exec .reset { stateOf cfg6 [] 4 77 [] (at_ 0) with presents := [⟨.blank, [], 1⟩], ind := true })
      (fun t => (t.presents, t.ind)) = some ([⟨.blank, [], 1⟩], false) := by decide

/-! ## The transport, the ports, the script -/

theorem test_overflow_dropNew :
    (arrive [3#8] { stateOf { cfg6 with rxqDepth := 2 } [] 0 0 [1#8, 2#8] (at_ 0) with held := [] }).rxq = [1#8, 2#8] := by
  decide
theorem test_overflow_dropOld :
    (arrive [3#8] (stateOf { cfg6 with rxqDepth := 2, rxqOverflow := .dropOld } [] 0 0 [1#8, 2#8] (at_ 0))).rxq =
      [2#8, 3#8] := by decide
theorem test_overflow_stall :
    (arrive [3#8] (stateOf { cfg6 with rxqDepth := 2, rxqOverflow := .stall } [] 0 0 [1#8, 2#8] (at_ 0))).held = [3#8] := by
  decide
/-- 95_test_vectors.md section 2.5: pixel 57, channel 1 is at address 172; address 599 is pixel 199, channel 2. -/
theorem test_address_mapping : addressOf 57 1 = 172 ∧ pixelIndex 599 = 199 ∧ channelIndex 599 = 2 := by decide
theorem test_default_frame : Config.default.frameBytes = 600 ∧ Config.default.cursorW = 10 := by decide
theorem test_pin_low_active :
    indPin { State.reset with cfg := { cfg6 with indActiveLevel := .low }, ind := true } = .low := by decide
/-- R88, example. -/
theorem test_render_record : renderCin cfg6 ⟨false, 5, 0x141#9⟩ = "0 0x00000005 0x141".toList := by decide
theorem test_parse_script :
    parseScript "CONFIG W=1 H=2 T=1000 TIME_W=32 ; six bytes\nRESET now=0\n\nRX 0xAA now=0x64\nWAIT from=1 to=5 step=2".toList =
      some [.config 1 2 1000 32 none, .reset 0, .rx 0xAA#8 100, .wait 1 5 2] := by decide
theorem test_script_needs_reset : loadScript cfg6 [.config 1 2 1000 32 none, .cycle 0] = none := by decide

/-! ## Placing an operation (log 11): the very next step runs it -/

theorem test_fetch_accept :
    after (step (State.reset.withFetchWord 16 0x1A5)) (fun t => (t.fb, t.cursor, t.rxPop)) =
    some ([(0, 0xA5#8)], 1, true) := by decide
theorem test_fetch_reset :
    after (step ({ State.reset with cursor := 5 }.withFetchWord 8 1)) (fun t => (t.cursor, t.indTrace)) = some (0, []) := by
  decide
theorem test_fetch_no_byte :
    after (step ({ State.reset with rxq := [1#8] }.withFetchWord 16 0x0FF)) (fun t => (t.cursor, t.rxPop, t.ind)) =
    some (0, false, true) := by decide
theorem test_fetch_live_active :
    after (step (State.reset.withFetchWord 8 0)) (fun t => (t.ind, t.indTrace)) = some (true, [true]) := by decide
theorem test_place_live_stale :
    after (step (placeInstr .liveStale 0#8 State.reset)) (fun t => (t.ind, t.presents.map Present.t)) =
    some (false, [1001]) := by decide
theorem test_place_frame_none :
    after (step (placeInstr .frameNone 0#8 State.reset)) (fun t => (t.rxFlush, t.cursor)) = some (false, 0) := by decide
theorem test_place_frame_complete :
    after (step (placeInstr .frameComplete 0#8 State.reset)) (fun t => (t.rxFlush, t.cursor)) = some (true, 0) := by decide

/-! ## States that meet the statements' hypotheses

Five boundary states, one for each kind of cycle: reset; no byte, active at the threshold; no byte, stale one ms past it; a byte at
the first address; the last byte of a frame. -/

def sReset : State := stateOf cfg6 [] 4 77 [9#8] (resetAt 500)
def sActive : State := stateOf cfg6 [(0, 1#8)] 3 300 [] (at_ 1300)
def sStale : State := stateOf cfg6 [(0, 1#8)] 3 300 [] (at_ 1301)
def sFirst : State := stateOf cfg6 [] 0 0 [0x33#8] (at_ 3)
def sLast : State := stateOf cfg6 [(0, 1#8)] 5 5 [0x60#8] (at_ 6)

theorem inv_reset : BoundaryInv sReset := by constructor <;> decide
theorem inv_active : BoundaryInv sActive := by constructor <;> decide
theorem inv_stale : BoundaryInv sStale := by constructor <;> decide
theorem inv_first : BoundaryInv sFirst := by constructor <;> decide
theorem inv_last : BoundaryInv sLast := by constructor <;> decide

/-- A boundary state with a well-typed next record, in each of the five kinds of cycle. -/
def FiveKinds : Prop :=
  (BoundaryInv sReset ∧ nextTyped sReset ∧ resets sReset = true) ∧
  (BoundaryInv sActive ∧ nextTyped sActive ∧ accepts sActive = false ∧ staleNext sActive = false) ∧
  (BoundaryInv sStale ∧ nextTyped sStale ∧ staleNext sStale = true) ∧
  (BoundaryInv sFirst ∧ nextTyped sFirst ∧ accepts sFirst = true ∧ completes sFirst = false) ∧
  (BoundaryInv sLast ∧ nextTyped sLast ∧ completes sLast = true)

theorem five_kinds : FiveKinds := by
  refine ⟨⟨inv_reset, ?_⟩, ⟨inv_active, ?_⟩, ⟨inv_stale, ?_⟩, ⟨inv_first, ?_⟩, ⟨inv_last, ?_⟩⟩ <;>
    unfold nextTyped <;> decide

theorem witness_AtMostOnePresentPerCycle : FiveKinds := five_kinds
theorem witness_StrobesMarkTheOperations : FiveKinds := five_kinds
theorem witness_IndicatorIsNotStale :
    (BoundaryInv sStale ∧ nextTyped sStale ∧ resets sStale = false) ∧
    (BoundaryInv sActive ∧ nextTyped sActive ∧ resets sActive = false) :=
  ⟨⟨inv_stale, five_kinds.2.2.1.2.1, by decide⟩, ⟨inv_active, five_kinds.2.1.2.1, by decide⟩⟩

theorem witness_TraceGainsRunningLevels : FiveKinds := five_kinds
theorem witness_CursorAndTimestampWriters : FiveKinds := five_kinds
theorem witness_BufferWriters : FiveKinds := five_kinds
theorem witness_ResetCycleStateInOneList : BoundaryInv sReset ∧ nextTyped sReset ∧ resets sReset = true := five_kinds.1

theorem witness_StepRunsTheDecodedOperations :
    (sReset.cfg.admitted = true ∧ nextTyped sReset ∧ resets sReset = true) ∧
    (sLast.cfg.admitted = true ∧ nextTyped sLast ∧ resets sLast = false) := by
  unfold nextTyped
  decide

theorem witness_InputsAdmittedAndBusIgnored :
    FiveKinds ∧ ((stateOf cfg6 [] 0 0 [] (at_ (2 ^ 32))).cfg.admitted = true ∧ 2 ^ cfg6.timeW ≤ (at_ (2 ^ 32)).now) :=
  ⟨five_kinds, by decide⟩

theorem witness_StepKeepsInvariant :
    (BoundaryInv sLast ∧ ∃ t, step sLast = .next t) ∧ (BoundaryInv sStale ∧ ∃ t, step sStale = .next t) :=
  ⟨⟨inv_last, _, rfl⟩, inv_stale, _, rfl⟩

theorem witness_ParametersNeverChange : ∃ t, step sLast = .next t := ⟨_, rfl⟩

theorem witness_ObservationOnlyGrows : ∃ t, step sStale = .next t := ⟨_, rfl⟩

/-- With a scheduled record and, at the state after reset, with none. -/
theorem witness_EveryCycleCompletes :
    (sLast.cfg.admitted = true ∧ sLast.cursor < sLast.cfg.frameBytes ∧ scheduleTyped sLast) ∧
    (State.reset.cfg.admitted = true ∧ State.reset.cursor < State.reset.cfg.frameBytes ∧ scheduleTyped State.reset) := by
  unfold scheduleTyped
  decide

theorem witness_RunsNeverStop : BoundaryInv sLast ∧ scheduleTyped sLast := ⟨inv_last, witness_EveryCycleCompletes.1.2.2⟩

theorem witness_LivenessIgnoresAssembly :
    BoundaryInv sStale ∧ BoundaryInv { sStale with cursor := 5, fb := [] } ∧ nextTyped sStale :=
  ⟨inv_stale, by constructor <;> decide, five_kinds.2.2.1.2.1⟩

/-- The cursor at both ends of its range, and a word of the row. -/
theorem witness_AcceptByteStoresAtCursor :
    0x1FF#9 &&& 0x100#9 = 0x100#9 ∧
    (Memory.wf sFirst.cfg.frameBytes sFirst.fb = true ∧ sFirst.cursor < sFirst.cfg.frameBytes) ∧
    (Memory.wf sLast.cfg.frameBytes sLast.fb = true ∧ sLast.cursor < sLast.cfg.frameBytes) := by decide

theorem witness_NoByteKeepsTheBlock : 0x0FF#9 &&& 0x100#9 = 0x000#9 := by decide

theorem witness_AcceptByteOutsideBufferFaults : cfg6.frameBytes ≤ { sLast with cursor := 6 }.cursor := by decide

theorem witness_FrameSelectorIsLastByte :
    (sFirst.cursor < sFirst.cfg.frameBytes ∧ sFirst.cursor + 1 ≠ sFirst.cfg.frameBytes) ∧
    (sLast.cursor < sLast.cfg.frameBytes ∧ sLast.cursor + 1 = sLast.cfg.frameBytes) := by decide

theorem witness_OnlyFourSelectorCombinations : sLast.cursor < sLast.cfg.frameBytes := by decide

theorem witness_AcceptedByteIsNeverStale :
    sLast.cursor < sLast.cfg.frameBytes ∧ rxValid 0x160#9 = true := by decide

theorem witness_PollTakesTheHead : sLast.rxq = 0x60#8 :: [] ∧ sActive.rxq = [] := by decide

theorem witness_PinFollowsIndicator : { sLast with ind := true }.ind = true ∧ sLast.ind = false := by decide

theorem witness_OnlyAdmittedConfigurationsRun :
    cfg6.admitted = true ∧ { cfg6 with timeW := 4, tMs := 15 }.tMs = 2 ^ 4 - 1 ∧
    { sLast with cfg := { cfg6 with gridH := 0 } }.cfg.admitted = false := by decide

theorem witness_DecodedBytesShowTheRow :
    decodeBytes .rxw [0xFF#8, 1#8] = .ok (.acceptByte 0xFF#8) ∧ decodeBytes .rst [1#8] = .ok .reset := by decide

/-- The last address, and the last pixel and channel. -/
theorem witness_AddressNamesPixelAndChannel :
    599 < Config.default.frameBytes ∧ 199 < Config.default.pixels ∧ 2 < 3 ∧
    (Memory.wf sLast.cfg.frameBytes sLast.fb = true ∧ sLast.cursor < sLast.cfg.frameBytes) := by decide

theorem witness_CursorWidthHoldsF :
    1 ≤ cfg6.gridW ∧ 1 ≤ cfg6.gridH ∧ cfg6.frameBytes - 1 < cfg6.frameBytes := by decide

theorem witness_ElapsedIsModularAndSelects : 0 < 2 ^ 32 ∧ 2 ^ 32 - 1 < 2 ^ 32 := by decide

/-- The last timestamp before the wrap, and a silence of one whole wrap and T_MS. -/
theorem witness_SilenceReadsModuloWrap :
    2 ^ 32 - 1 < cfg6.timeModulus ∧ 2 ^ 32 + 1000 = 1 * cfg6.timeModulus + 1000 ∧ 1000 ≤ cfg6.tMs := by decide

theorem witness_ThresholdIsStrict :
    cfg6.admitted = true ∧ 2 ^ 32 - 1 < cfg6.timeModulus ∧ 300 ≤ 1301 ∧ 1301 < cfg6.timeModulus := by decide

/-- A full queue under Stall, with a byte held back. -/
def sHeld : State :=
  { stateOf { cfg6 with rxqDepth := 1, rxqOverflow := .stall } [] 0 0 [1#8] (at_ 0) with held := [2#8] }

/-- A full queue under each policy, and under Stall one with a byte held back. -/
theorem witness_OverflowFollowsPolicy :
    (sHeld.cfg.rxqOverflow = .stall ∧ 1 ≤ sHeld.cfg.rxqDepth ∧ sHeld.rxq.length ≤ sHeld.cfg.rxqDepth ∧ sHeld.held ≠ []) ∧
    ∀ o ∈ [Overflow.dropNew, .dropOld, .stall],
      1 ≤ (stateOf { cfg6 with rxqDepth := 1, rxqOverflow := o } [] 0 0 [1#8] (at_ 0)).cfg.rxqDepth ∧
      (stateOf { cfg6 with rxqDepth := 1, rxqOverflow := o } [] 0 0 [1#8] (at_ 0)).rxq.length ≤ 1 ∧
      (stateOf { cfg6 with rxqDepth := 1, rxqOverflow := o } [] 0 0 [1#8] (at_ 0)).held = [] := by decide

theorem witness_StallLosesNoByte :
    { sLast with cfg := { cfg6 with rxqOverflow := .stall }, held := [2#8] }.cfg.rxqOverflow = .stall := by decide

theorem witness_QueuedExtrasLeaveNoTrace :
    BoundaryInv sLast ∧ nextTyped sLast ∧ resets sLast = false ∧ (nextInput sLast).arrivals = [] ∧ sLast.held = [] ∧
    sLast.rxq = [0x60#8] ∧ sLast.cursor + 1 = sLast.cfg.frameBytes :=
  ⟨inv_last, five_kinds.2.2.2.2.2.1, by decide⟩

theorem witness_ArrivalsBehindTheLastByteAreDrained :
    BoundaryInv sLast ∧ (at_ 6).wellTyped sLast.cfg = true ∧ (at_ 6).rst = false ∧ sLast.held = [] ∧ sLast.rxq ≠ [] ∧
    sLast.cursor + 1 = sLast.cfg.frameBytes ∧ sLast.rxq.length + [0x70#8, 0x71#8].length ≤ sLast.cfg.rxqDepth :=
  ⟨inv_last, by decide⟩

/-- The byte `b` arrives before a cycle at time `t`. -/
def byteAt (b : Byte) (t : Nat) : CycleInput := { quietInput t 0#8 with arrivals := [b] }

/-- One pixel at F = 3, from an empty buffer position 0, with a pause of T_MS inside. -/
def sFrame : State :=
  { stateOf { cfg6 with gridH := 1 } [] 0 0 [] (byteAt 1#8 1000) with
    inputs := [byteAt 1#8 1000, byteAt 2#8 1001] ++ at_ 2001 :: byteAt 3#8 9000 :: [] }

/-- Program P2, part (a), at F = 3: the whole frame and an extra byte wait before the first cycle; one byte more than the queue holds
is held back, and another arrives in the stretch. -/
def sQueued : State :=
  { stateOf { cfg6 with gridH := 1, rxqDepth := 3, rxqOverflow := .stall } [] 0 0 [1#8, 2#8, 3#8] (at_ 10) with
    held := [4#8], inputs := [at_ 10, byteAt 5#8 11] ++ at_ 12 :: [] }

theorem inv_frame : BoundaryInv sFrame := by constructor <;> decide
theorem inv_queued : BoundaryInv sQueued := by constructor <;> decide

/-- With bytes that arrive one by one, and with bytes that wait over several cycles. -/
theorem witness_FrameHoldsBytesInArrivalOrder :
    (BoundaryInv sFrame ∧ sFrame.cursor = 0 ∧
      sFrame.inputs = [byteAt 1#8 1000, byteAt 2#8 1001, at_ 2001] ++ byteAt 3#8 9000 :: [] ∧
      calm sFrame.cfg sFrame.lastT (waiting sFrame).length
        ([byteAt 1#8 1000, byteAt 2#8 1001, at_ 2001] ++ [byteAt 3#8 9000]) = true ∧
      taken (waiting sFrame).length [byteAt 1#8 1000, byteAt 2#8 1001, at_ 2001] + 1 = sFrame.cfg.frameBytes ∧
      taken (waiting sFrame).length ([byteAt 1#8 1000, byteAt 2#8 1001, at_ 2001] ++ [byteAt 3#8 9000]) =
        sFrame.cfg.frameBytes) ∧
    (BoundaryInv sQueued ∧ sQueued.cursor = 0 ∧ sQueued.inputs = [at_ 10, byteAt 5#8 11] ++ at_ 12 :: [] ∧
      calm sQueued.cfg sQueued.lastT (waiting sQueued).length ([at_ 10, byteAt 5#8 11] ++ [at_ 12]) = true ∧
      taken (waiting sQueued).length [at_ 10, byteAt 5#8 11] + 1 = sQueued.cfg.frameBytes ∧
      taken (waiting sQueued).length ([at_ 10, byteAt 5#8 11] ++ [at_ 12]) = sQueued.cfg.frameBytes) :=
  ⟨⟨inv_frame, by decide⟩, ⟨inv_queued, by decide⟩⟩

/-- One byte fewer than F. -/
theorem witness_ShortStretchNeverPresents :
    (BoundaryInv sFrame ∧ sFrame.inputs = [byteAt 1#8 1000, byteAt 2#8 1001, at_ 2001] ++ [byteAt 3#8 9000] ∧
      calm sFrame.cfg sFrame.lastT (waiting sFrame).length [byteAt 1#8 1000, byteAt 2#8 1001, at_ 2001] = true ∧
      sFrame.cursor + taken (waiting sFrame).length [byteAt 1#8 1000, byteAt 2#8 1001, at_ 2001] + 1 =
        sFrame.cfg.frameBytes) ∧
    (BoundaryInv sQueued ∧ sQueued.inputs = [at_ 10, byteAt 5#8 11] ++ [at_ 12] ∧
      calm sQueued.cfg sQueued.lastT (waiting sQueued).length [at_ 10, byteAt 5#8 11] = true ∧
      sQueued.cursor + taken (waiting sQueued).length [at_ 10, byteAt 5#8 11] + 1 = sQueued.cfg.frameBytes) :=
  ⟨⟨inv_frame, by decide⟩, ⟨inv_queued, by decide⟩⟩

theorem witness_StaleStretchRepeatsBlanks :
    BoundaryInv { sStale with inputs := [at_ 1301, at_ 1400] ++ [] } ∧ sStale.rxq = [] ∧ sStale.held = [] ∧
    silentStale sStale.cfg sStale.lastT [at_ 1301, at_ 1400] = true :=
  ⟨by constructor <;> decide, by decide⟩

/-- Program P3: three bytes, a timeout, three bytes, of which two arrive together. -/
theorem witness_TimeoutKeepsTheCursor :
    BoundaryInv { sStale with
      inputs := at_ 1301 :: [byteAt 1#8 2000, { at_ 2001 with arrivals := [2#8, 3#8] }] ++ at_ 2002 :: [] } ∧
    sStale.rxq = [] ∧ sStale.held = [] ∧ silentStale sStale.cfg sStale.lastT [at_ 1301] = true ∧
    calm sStale.cfg sStale.lastT 0 ([byteAt 1#8 2000, { at_ 2001 with arrivals := [2#8, 3#8] }] ++ [at_ 2002]) = true ∧
    sStale.cursor + taken 0 [byteAt 1#8 2000, { at_ 2001 with arrivals := [2#8, 3#8] }] + 1 = sStale.cfg.frameBytes ∧
    taken 0 ([byteAt 1#8 2000, { at_ 2001 with arrivals := [2#8, 3#8] }] ++ [at_ 2002]) =
      taken 0 [byteAt 1#8 2000, { at_ 2001 with arrivals := [2#8, 3#8] }] + 1 :=
  ⟨by constructor <;> decide, by decide⟩

/-- Vectors RS3 and RS4: the first cycle after the reset at time 500 comes at time `t`. -/
def sStartup (t : Nat) : State := { stateOf cfg6 [] 4 77 [] (at_ 0) with inputs := [resetAt 500, at_ t] }

/-- `StartupTimeout`'s hypotheses, for a first running cycle at time `t`. -/
def StartupHypotheses (t : Nat) : Prop :=
  BoundaryInv (sStartup t) ∧ (resetAt 500).wellTyped cfg6 = true ∧ (at_ t).wellTyped cfg6 = true ∧
  (resetAt 500).rst = true ∧ (at_ t).rst = false ∧ (resetAt 500).arrivals = [] ∧ (at_ t).arrivals = []

/-- At the threshold and one past it. -/
theorem witness_StartupTimeout : StartupHypotheses 1500 ∧ StartupHypotheses 1501 :=
  ⟨⟨by constructor <;> decide, by decide⟩, ⟨by constructor <;> decide, by decide⟩⟩

theorem witness_RepeatedResetsAreOne :
    BoundaryInv sReset ∧ (resetAt 5).wellTyped sReset.cfg = true ∧ (resetAt 9).wellTyped sReset.cfg = true ∧
    (resetAt 5).rst = true ∧ (resetAt 9).rst = true ∧ (resetAt 5).arrivals = [] :=
  ⟨inv_reset, by decide⟩

theorem witness_ScriptBeginsWithConfigAndReset :
    (loadScript Config.default [.config 1 2 1000 32 none, .reset 0]).isSome = true := by decide

/-- A FRAME of F bytes; a WAIT whose end is its start, and one of three cycles. -/
theorem witness_PseudoStatementsExpand :
    (List.replicate 6 0#8).length = cfg6.frameBytes ∧ (1 ≤ 1 ∧ 7 ≤ 7) ∧ (1 ≤ 2 ∧ 1 ≤ 6) := by decide

/-- R86: a WAIT whose end is its start is one cycle, and one that steps past its end stops at the largest time before it. -/
theorem test_wait_bounds :
    expandStmt cfg6 (.wait 7 7 1) = some [.cycle 7] ∧ expandStmt cfg6 (.wait 1 6 2) = some [.cycle 1, .cycle 3, .cycle 5] := by
  decide

/-- A WAIT whose end is just before its start, and a FRAME one byte short. -/
theorem witness_PseudoStatementsOutsideTheRule :
    (1 ≤ 1 ∧ 6 < 7) ∧ (List.replicate 5 0#8).length ≠ cfg6.frameBytes := by decide

end Sys2Proof.Tests
end

