-- ==== Sys2Proof/Proofs/Scope.lean ====
section
/-!
Proofs about the parameters (00_scope.md section 4): the frame size and the cursor's width (R10, R12), and the admitted
configurations (R11).
-/

namespace Sys2Proof.Machine

/-! ## The frame size (R10) -/

theorem three_dvd_frameBytes (c : Config) : 3 ∣ c.frameBytes := Nat.dvd_mul_left _ _

theorem frameBytes_pos {c : Config} (hw : 1 ≤ c.gridW) (hh : 1 ≤ c.gridH) : 0 < c.frameBytes :=
  Nat.mul_pos (Nat.mul_pos hw hh) (by decide)

/-- The prime 3 divides F and no power of two. -/
theorem frameBytes_ne_two_pow (c : Config) (k : Nat) : c.frameBytes ≠ 2 ^ k := by
  intro h
  have hdvd : 3 ∣ 2 ^ k := h ▸ three_dvd_frameBytes c
  exact absurd (Nat.prime_three.dvd_of_dvd_pow hdvd) (by decide)

/-! ## The cursor's width (R9, R12) -/

theorem le_two_pow_ceilLog2 (n : Nat) : n ≤ 2 ^ ceilLog2 n :=
  Nat.le_of_pred_lt Nat.lt_log2_self

/-- `ceilLog2 n` is the least width: one bit less holds fewer than `n` values. -/
theorem two_pow_ceilLog2_pred_lt {n : Nat} (h : 2 ≤ n) : 2 ^ (ceilLog2 n - 1) < n :=
  calc 2 ^ (ceilLog2 n - 1) ≤ n - 1 := Nat.log2_self_le (by omega)
    _ < n := by omega

/-- F ≤ 2^CURSOR_W by the width's definition, and F is no power of two. -/
theorem frameBytes_lt_two_pow_cursorW (c : Config) : c.frameBytes < 2 ^ c.cursorW :=
  Nat.lt_of_le_of_ne (le_two_pow_ceilLog2 _) (frameBytes_ne_two_pow c _)

/-- R103: the count formed from a cursor below F needs no extra bit. -/
theorem cursor_increment_toNat {c : Config} {cur : Nat} (h : cur < c.frameBytes) :
    (BitVec.ofNat c.cursorW cur + 1#c.cursorW).toNat = cur + 1 := by
  have hfit : cur + 1 < 2 ^ c.cursorW := Nat.lt_of_le_of_lt h (frameBytes_lt_two_pow_cursorW c)
  rw [← BitVec.ofNat_add, BitVec.toNat_ofNat, Nat.mod_eq_of_lt hfit]

/-- Settles O6: 3 divides F, so F is no power of two and stays strictly below 2^CURSOR_W. -/
theorem cursorWidthHoldsF : Obligations.CursorWidthHoldsF := by
  intro c hw hh
  have hthree : c.frameBytes % 3 = 0 := Nat.mod_eq_zero_of_dvd (three_dvd_frameBytes c)
  have hpos := frameBytes_pos hw hh
  exact ⟨hthree, frameBytes_ne_two_pow c, Nat.le_pred_of_lt (frameBytes_lt_two_pow_cursorW c),
    two_pow_ceilLog2_pred_lt (by omega), fun _ => cursor_increment_toNat⟩

/-! ## Elapsed time and the threshold (R121) -/

theorem staleAt_eq_true_iff {c : Config} {now last : Nat} :
    staleAt c now last = true ↔ c.tMs < elapsed c.timeW now last := decide_eq_true_iff

theorem staleAt_eq_false_iff {c : Config} {now last : Nat} :
    staleAt c now last = false ↔ elapsed c.timeW now last ≤ c.tMs := by
  rw [← Bool.not_eq_true, staleAt_eq_true_iff, Nat.not_lt]

theorem elapsed_zero {w now : Nat} (h : now < 2 ^ w) : elapsed w now 0 = now := by
  simp [elapsed, Nat.mod_eq_of_lt h]

/-! ## The admitted configurations (R11) -/

theorem admitted_iff {c : Config} :
    c.admitted = true ↔
      1 ≤ c.gridW ∧ 1 ≤ c.gridH ∧ 1 ≤ c.timeW ∧ c.tMs ≤ 2 ^ c.timeW - 2 ∧ 1 ≤ c.rxqDepth := by
  simp [Config.admitted, and_assoc]

/-- The bound on T_MS leaves room for one more time value, T_MS + 1. -/
theorem tMs_succ_lt_of_admitted {c : Config} (h : c.admitted = true) : c.tMs + 1 < 2 ^ c.timeW := by
  obtain ⟨-, -, htime, hthreshold, -⟩ := admitted_iff.mp h
  have htwo : 2 ≤ 2 ^ c.timeW := Nat.le_self_pow (by omega) 2
  omega

/-- The stale state is reachable: an elapsed time of T_MS + 1 is stale. -/
theorem staleAt_tMs_succ {c : Config} (h : c.admitted = true) : staleAt c (c.tMs + 1) 0 = true := by
  rw [staleAt_eq_true_iff, elapsed_zero (tMs_succ_lt_of_admitted h)]
  exact Nat.lt_succ_self _

/-- No elapsed time exceeds the largest time value. -/
theorem staleAt_of_largest_threshold {c : Config} (h : c.tMs = 2 ^ c.timeW - 1) (now last : Nat) :
    staleAt c now last = false := by
  rw [staleAt_eq_false_iff, h]
  exact Nat.le_pred_of_lt (elapsed_lt _ _ _)

theorem step_of_not_admitted {s : State} (h : s.cfg.admitted = false) : step s = .refused .inadmissibleConfig := by
  simp [step, coreCycle, h]

/-- Settles O25: the stale state is reached at T_MS + 1, which the bound on T_MS keeps a time value. -/
theorem onlyAdmittedConfigurationsRun : Obligations.OnlyAdmittedConfigurationsRun :=
  ⟨fun _ => admitted_iff, fun c h => ⟨c.tMs + 1, tMs_succ_lt_of_admitted h, staleAt_tMs_succ h⟩,
    fun _ => staleAt_of_largest_threshold, fun _ => step_of_not_admitted⟩

end Sys2Proof.Machine
end

