-- ==== Sys2Proof/Proofs/State.lean ====
section
/-!
Proofs about the state (10_state.md): what a core cycle writes, whatever its kind, and the invariant of a core-cycle boundary.
-/

namespace Sys2Proof.Machine

/-! ## The next cycle's kind, read from the state before it -/

theorem accepts_of_empty {s : State} (hq : (arrived s).rxq = []) : accepts s = false := by simp [accepts, hq]

theorem accepts_of_cons {s : State} {b : Byte} {q : List Byte} (hr : resets s = false) (hq : (arrived s).rxq = b :: q) :
    accepts s = true := by
  simp [accepts, hr, hq]

/-- Without a byte the liveness slot sees the timestamp the state holds. -/
theorem staleNext_of_empty {s : State} (hr : resets s = false) (hq : (arrived s).rxq = []) :
    staleNext s = staleAt s.cfg (nextInput s).now s.lastT := by
  simp [staleNext, timestampSeen, accepts_of_empty hq, hr]

/-- R122: the byte refreshes the timestamp before the liveness slot looks at it. -/
theorem staleNext_of_cons {s : State} {b : Byte} {q : List Byte} (hr : resets s = false)
    (hq : (arrived s).rxq = b :: q) : staleNext s = false := by
  simp [staleNext, timestampSeen, accepts_of_cons hr hq]

theorem nextInput_now_lt {s : State} (ht : nextTyped s) : (nextInput s).now < s.cfg.timeModulus :=
  of_decide_eq_true ht

/-! ## Steps from any state, the cursor in range or not -/

/-- A step that answers a next state was a reset cycle, or the three slots on the arrived state, less the byte polled. -/
theorem reset_or_slots_of_step {s t : State} (h : step s = .next t) :
    t = { arrived s with fb := Memory.blank, cursor := 0, lastT := (nextInput s).now, ind := s.cfg.indAtReset,
                         rxPop := false, rxFlush := false, now := 0, n := 0, complete := false } ∨
    ∃ w q, runSlots w (openCycle (nextInput s).now { arrived s with rxq := q }) = .next t := by
  obtain ⟨ha, ht⟩ := admitted_of_step h
  cases hr : resets s with
  | true =>
    rw [step_reset ha ht hr] at h
    cases h
    exact .inl rfl
  | false =>
    right
    cases hq : (arrived s).rxq with
    | nil =>
      rw [step_empty ha ht hr hq] at h
      exact ⟨_, (arrived s).rxq, h⟩
    | cons b q => exact ⟨_, q, step_cons ha ht hr hq ▸ h⟩

/-- The slots keep the parameters, add one entry to the indicator trace and at most one to the present log. -/
theorem runSlots_next {w : RxWord} {s t : State} (h : runSlots w s = .next t) :
    t.cfg = s.cfg ∧ (∃ ps, t.presents = s.presents ++ ps ∧ ps.length ≤ 1) ∧ ∃ x, t.indTrace = s.indTrace ++ [x] := by
  obtain ⟨-, -, e⟩ | ⟨-, -, e⟩ | ⟨-, -, e⟩ | ⟨-, -, e⟩ | ⟨-, -, e⟩ := runSlots_cases w s <;> rw [e] at h <;> cases h
  · exact ⟨rfl, ⟨[], (List.append_nil _).symm, Nat.zero_le 1⟩, _, rfl⟩
  · exact ⟨rfl, ⟨_, rfl, Nat.le_refl 1⟩, _, rfl⟩
  · exact ⟨rfl, ⟨[], (List.append_nil _).symm, Nat.zero_le 1⟩, _, rfl⟩
  · exact ⟨rfl, ⟨_, rfl, Nat.le_refl 1⟩, _, rfl⟩

/-- Settles O39: RESET and the slots all leave the configuration. -/
theorem parametersNeverChange : Obligations.ParametersNeverChange := by
  intro s t h
  obtain rfl | ⟨w, q, hrun⟩ := reset_or_slots_of_step h
  · exact arrived_cfg s
  · exact (runSlots_next hrun).1.trans (arrived_cfg s)

/-- Settles O40: RESET adds nothing, and of the slots each log gets what `runSlots_next` says. -/
theorem observationOnlyGrows : Obligations.ObservationOnlyGrows := by
  intro s t h
  obtain rfl | ⟨w, q, hrun⟩ := reset_or_slots_of_step h
  · exact ⟨[], [], by simp⟩
  · obtain ⟨-, ⟨ps, hps, hlen⟩, x, hx⟩ := runSlots_next hrun
    exact ⟨ps, [x], by simpa using hps, by simpa using hx, hlen, Nat.le_refl 1⟩

/-! ## The frame buffer (R21, R52) -/

/-- What a byte stored at the cursor does to the buffer, whether or not it completes the frame. -/
theorem read_after_byte {s : State} {b : Byte} {q : List Byte} (hi : BoundaryInv s) (hr : resets s = false)
    (hq : (arrived s).rxq = b :: q) (a : Nat) :
    Memory.read (Memory.write s.fb s.cursor b) a =
      if resets s || staleNext s then 0#8
      else if accepts s = true ∧ a = byteAddress s then (arrived s).rxq.headD 0#8
      else Memory.read s.fb a := by
  simp [Memory.read_write hi.bufferWf, hr, staleNext_of_cons hr hq, accepts_of_cons hr hq, hq, byteAddress]

/-- Settles O36: of the kinds of cycle in `step_cases`, one keeps the buffer, two blank it and two store the byte polled. -/
theorem bufferWriters : Obligations.BufferWriters := by
  intro s hi ht
  obtain ⟨hr, e⟩ | ⟨hr, hq, hs, e⟩ | ⟨hr, hq, hs, e⟩ | ⟨b, q, hr, hq, -, e⟩ | ⟨b, q, hr, hq, -, e⟩ :=
    step_cases hi.admitted hi.cursorInRange ht <;> refine ⟨_, e, fun a => ?_⟩
  · simp [hr]
  · simp [hr, staleNext_of_empty hr hq, hs, accepts_of_empty hq]
  · simp [staleNext_of_empty hr hq, hs]
  · exact read_after_byte hi hr hq a
  · exact read_after_byte hi hr hq a

/-! ## The boundary invariant -/

theorem Present.wf_frame {c : Config} {t : Nat} (m : Memory) (ht : t < c.timeModulus) :
    Present.wf c ⟨.frame, Memory.snapshot c.frameBytes m, t⟩ = true := by
  simp [Present.wf, ht]

theorem Present.wf_blank {c : Config} {t : Nat} (ht : t < c.timeModulus) :
    Present.wf c ⟨.blank, List.replicate c.frameBytes 0#8, t⟩ = true := by
  simp [Present.wf, ht]

theorem Present.wf_concat {c : Config} {ps : List Present} {p : Present}
    (h : ∀ x ∈ ps, Present.wf c x = true) (hp : Present.wf c p = true) : ∀ x ∈ ps ++ [p], Present.wf c x = true :=
  List.forall_mem_append.mpr ⟨h, List.forall_mem_singleton.mpr hp⟩

/-- The arrived state with strobes and cycle values cleared is a boundary state: arrivals keep the queue's bounds and touch nothing
else. Every cycle ends in this state but for the fields its operations write. -/
theorem boundaryInv_arrived {s : State} (hi : BoundaryInv s) :
    BoundaryInv (closeCycle (strobeFlush false (strobePop false (arrived s)))) where
  admitted := by simpa using hi.admitted
  bufferWf := by simpa using hi.bufferWf
  cursorInRange := by simpa using hi.cursorInRange
  timestampInRange := by simpa using hi.timestampInRange
  queueInDepth := by simpa using arrived_rxq_length hi
  heldOnlyUnderStall := by simpa using arrived_held
  accumulating := rfl
  noLocals := ⟨rfl, rfl⟩
  flushAfterCompletion := nofun
  popMeansActive := nofun
  presentsWf := by simpa using hi.presentsWf

/-- Settles O27: each kind of cycle overwrites some fields of the state of `boundaryInv_arrived` with values in range. -/
theorem stepKeepsInvariant : Obligations.StepKeepsInvariant := by
  intro s t hi h
  obtain ⟨-, ht⟩ := admitted_of_step h
  have hb := boundaryInv_arrived hi
  have hnow := nextInput_now_lt ht
  obtain ⟨-, e⟩ | ⟨-, -, -, e⟩ | ⟨-, -, -, e⟩ | ⟨b, q, -, hq, hn, e⟩ | ⟨b, q, -, -, hn, e⟩ :=
    step_cases hi.admitted hi.cursorInRange ht <;> rw [e] at h <;> cases h
  · -- a reset cycle
    exact { hb with
      bufferWf := Memory.wf_blank _
      cursorInRange := Nat.zero_lt_of_lt hb.cursorInRange
      timestampInRange := by simpa using hnow
      flushAfterCompletion := nofun
      popMeansActive := nofun }
  · -- no byte, link active
    exact { hb with popMeansActive := nofun }
  · -- no byte, link stale
    exact { hb with
      bufferWf := Memory.wf_blank _
      popMeansActive := nofun
      presentsWf := by simpa using Present.wf_concat hi.presentsWf (Present.wf_blank hnow) }
  · -- a byte that does not complete the frame
    have hqueue : q.length + 1 ≤ s.cfg.rxqDepth := by simpa [hq] using arrived_rxq_length hi
    exact { hb with
      bufferWf := by simpa using Memory.wf_write hi.bufferWf hi.cursorInRange
      cursorInRange := by simpa using hn
      timestampInRange := by simpa using hnow
      queueInDepth := by simpa using Nat.le_of_succ_le hqueue
      flushAfterCompletion := nofun
      popMeansActive := fun _ => rfl }
  · -- a byte that completes the frame
    exact { hb with
      bufferWf := by simpa using Memory.wf_write hi.bufferWf hi.cursorInRange
      cursorInRange := Nat.zero_lt_of_lt hb.cursorInRange
      timestampInRange := by simpa using hnow
      queueInDepth := Nat.zero_le _
      flushAfterCompletion := fun _ => ⟨rfl, rfl, rfl⟩
      popMeansActive := fun _ => rfl
      presentsWf := by simpa using Present.wf_concat hi.presentsWf (Present.wf_frame _ hnow) }

end Sys2Proof.Machine
end

