-- ==== Sys2Proof/Proofs/Memory.lean ====
section
/-!
Proofs about the frame buffer's addresses (20_memory.md: R51, R59) and about the order in which bytes reach the transport's queue
under Stall (R66, D13).
-/

namespace Sys2Proof.Machine

/-! ## Addresses, pixels and channels (R10, R51) -/

theorem channelIndex_lt (a : Nat) : channelIndex a < 3 := Nat.mod_lt a (by decide)

theorem pixelIndex_lt {c : Config} {a : Nat} (h : a < c.frameBytes) : pixelIndex a < c.pixels :=
  Nat.div_lt_of_lt_mul (by rwa [Nat.mul_comm])

/-- An address is that of its own pixel and channel. -/
@[simp] theorem addressOf_pixelIndex_channelIndex (a : Nat) : addressOf (pixelIndex a) (channelIndex a) = a :=
  Nat.div_add_mod a 3

theorem addressOf_lt {c : Config} {k ch : Nat} (hk : k < c.pixels) (hch : ch < 3) : addressOf k ch < c.frameBytes := by
  simp only [addressOf, channelsPerPixel, Config.frameBytes]
  omega

theorem pixelIndex_addressOf {k ch : Nat} (h : ch < 3) : pixelIndex (addressOf k ch) = k := by
  simp only [pixelIndex, addressOf, channelsPerPixel]
  omega

theorem channelIndex_addressOf {k ch : Nat} (h : ch < 3) : channelIndex (addressOf k ch) = ch := by
  simp only [channelIndex, addressOf, channelsPerPixel]
  omega

/-! ## ACCEPT_BYTE below F (R102) -/

/-- What ACCEPT_BYTE answers with the cursor in range: the RX slot's law for the word that selects it. -/
theorem exec_acceptByte (d : Byte) {s : State} (h : s.cursor < s.cfg.frameBytes) :
    exec (.acceptByte d) s =
      .next { s with fb := Memory.write s.fb s.cursor d, lastT := s.now, n := s.cursor + 1,
                     complete := completesFrame s.cfg (s.cursor + 1), rxPop := true } := by
  simpa [rxSlot] using rxSlot_byte (rxValid_rxSome d) h

/-- Settles O5: division by 3 with remainder one way, its uniqueness the other, and the write at the cursor read back. -/
theorem addressNamesPixelAndChannel : Obligations.AddressNamesPixelAndChannel := by
  refine ⟨fun c a ha => ?_, fun c k ch hk hch => ?_, fun d s hwf hcur => ?_⟩
  · exact ⟨pixelIndex_lt ha, channelIndex_lt a, addressOf_pixelIndex_channelIndex a⟩
  · exact ⟨rfl, addressOf_lt hk hch, pixelIndex_addressOf hch, channelIndex_addressOf hch⟩
  · have hread : Memory.read (Memory.write s.fb s.cursor d) s.cursor = d := Memory.read_write_same hwf
    exact ⟨rfl, _, exec_acceptByte d hcur, hread, by rwa [addressOf_pixelIndex_channelIndex]⟩

/-! ## Arrivals under Stall (R66, D13) -/

/-- The sender holds bytes back only while the queue is full. Between the arrivals of one cycle it is what keeps the order: with a
byte held back, no later byte finds room before it. -/
def HeldOnlyWhileFull (c : Config) (p : List Byte × List Byte) : Prop :=
  p.1.length < c.rxqDepth → p.2 = []

theorem offer_of_room {c : Config} {p : List Byte × List Byte} (b : Byte) (h : p.1.length < c.rxqDepth) :
    offer c p b = (p.1 ++ [b], p.2) := if_pos h

theorem offer_stall_of_full {c : Config} {p : List Byte × List Byte} (b : Byte) (ho : c.rxqOverflow = .stall)
    (h : ¬ p.1.length < c.rxqDepth) : offer c p b = (p.1, p.2 ++ [b]) := by
  rw [offer, if_neg h, ho]

theorem offer_keeps_heldOnlyWhileFull {c : Config} {p : List Byte × List Byte} (b : Byte) (ho : c.rxqOverflow = .stall)
    (hp : HeldOnlyWhileFull c p) : HeldOnlyWhileFull c (offer c p b) := by
  by_cases hroom : p.1.length < c.rxqDepth
  · rw [offer_of_room b hroom]
    exact fun _ => hp hroom
  · rw [offer_stall_of_full b ho hroom]
    exact fun h => absurd h hroom

/-- One byte comes last, behind the queue's bytes and those held back: with room there are none held back. -/
theorem offer_stall_append {c : Config} {p : List Byte × List Byte} (b : Byte) (ho : c.rxqOverflow = .stall)
    (hp : HeldOnlyWhileFull c p) : (offer c p b).1 ++ (offer c p b).2 = p.1 ++ p.2 ++ [b] := by
  by_cases hroom : p.1.length < c.rxqDepth
  · simp [offer_of_room b hroom, hp hroom]
  · simp [offer_stall_of_full b ho hroom]

theorem offerAll_stall_append {c : Config} {p : List Byte × List Byte} (bs : List Byte) (ho : c.rxqOverflow = .stall)
    (hp : HeldOnlyWhileFull c p) : (offerAll c p bs).1 ++ (offerAll c p bs).2 = p.1 ++ p.2 ++ bs := by
  induction bs generalizing p with
  | nil => exact (List.append_nil _).symm
  | cons b bs ih =>
    rw [offerAll, ih (offer_keeps_heldOnlyWhileFull b ho hp), offer_stall_append b ho hp, List.append_assoc,
      List.singleton_append]

/-- Settles O43: the arrivals start with nothing held back, the bytes held before being offered first. -/
theorem stallLosesNoByte : Obligations.StallLosesNoByte := by
  intro s bs ho
  have hstart : HeldOnlyWhileFull s.cfg (s.rxq, []) := fun _ => rfl
  rw [arrive_rxq, arrive_held, offerAll_stall_append _ ho hstart, List.append_nil, List.append_assoc]

end Sys2Proof.Machine
end

