-- ==== Sys2Proof/Proofs/Encoding.lean ====
section
/-!
Proofs about the selector words and the cycle inputs (30_encoding.md): the decoder and the encoder (R72, R77, R82), the selectors that
the slots show (R74, R75), the output levels (R79, R80), the input records (R73), the arrivals at the queue (D13) and the stimulus
script (R85, R86).
-/

namespace Sys2Proof

/-! ## RX words (R72) -/

theorem rxSome_eq_cons (b : Byte) : rxSome b = BitVec.cons true b := rfl

theorem rxNone_eq_cons (d : Byte) : rxNone d = BitVec.cons false d := rfl

theorem toNat_rxSome (b : Byte) : (rxSome b).toNat = 256 + b.toNat := by
  rw [rxSome_eq_cons, BitVec.toNat_cons']
  rfl

theorem toNat_rxNone (d : Byte) : (rxNone d).toNat = d.toNat := by
  rw [rxNone_eq_cons, BitVec.toNat_cons']
  exact Nat.zero_add _

/-- A word of nine bits is its top bit above the other eight, and the top bit is 1 or 0. -/
theorem rxWord_cases (w : RxWord) : (∃ b, w = rxSome b) ∨ ∃ d, w = rxNone d := by
  have hw : BitVec.cons w.msb (w.setWidth 8) = w := BitVec.cons_msb_setWidth w
  cases hv : w.msb <;> rw [hv] at hw
  · exact .inr ⟨_, hw.symm⟩
  · exact .inl ⟨_, hw.symm⟩

/-! ## The opcode map (R77) -/

theorem decode_rxSome (b : Byte) : decode (.rxw (rxSome b)) = .ok (.acceptByte b) := by simp [decode]

theorem decode_rxNone (d : Byte) : decode (.rxw (rxNone d)) = .ok .noByte := by simp [decode]

theorem decode_encode (i : Instr) : decode (encode i) = .ok i := by
  cases i with
  | acceptByte d => exact decode_rxSome d
  | _ => rfl

@[simp] theorem format_encode (i : Instr) : (encode i).format = i.format := by cases i <;> rfl

/-- A word that decodes is the one the encoder writes, but for the field that NO_BYTE ignores. -/
theorem eq_encode_of_decode {w : OpWord} {i : Instr} (h : decode w = .ok i) :
    w = encode i ∨ i = .noByte ∧ ∃ d, w = .rxw (rxNone d) := by
  cases w with
  | rxw w =>
    obtain ⟨b, rfl⟩ | ⟨d, rfl⟩ := rxWord_cases w
    · rw [decode_rxSome] at h
      cases h
      exact .inl rfl
    · rw [decode_rxNone] at h
      cases h
      exact .inr ⟨rfl, d, rfl⟩
  | rst w | lvs w | fcs w =>
    left
    obtain rfl | rfl := BitVec.eq_zero_or_eq_one w <;> cases h <;> rfl

/-- The word the encoder writes shows the selecting bits of its operation's row. -/
theorem encode_shows_row (i : Instr) : (encode i).bits &&& i.tableMask = i.tableMatch := by
  cases i with
  | reset => exact Laws.TableRow.reset.1
  | acceptByte d => exact (Laws.TableRow.acceptByte d).1
  | noByte => exact Laws.TableRow.noByte.1
  | liveActive => exact Laws.TableRow.liveActive.1
  | liveStale => exact Laws.TableRow.liveStale.1
  | frameNone => exact Laws.TableRow.frameNone.1
  | frameComplete => exact Laws.TableRow.frameComplete.1

theorem rxNone_shows_row (d : Byte) :
    (OpWord.rxw (rxNone d)).bits &&& Instr.noByte.tableMask = Instr.noByte.tableMatch := by
  revert d
  decide

/-- What a decoded word shows: its operation's format, the row's selecting bits, and a data byte where the row has one. -/
theorem row_of_decode {w : OpWord} {i : Instr} (h : decode w = .ok i) :
    w.format = i.format ∧ w.bits &&& i.tableMask = i.tableMatch ∧ ∀ d, i = .acceptByte d → w.bits = 256 + d.toNat := by
  obtain rfl | ⟨rfl, d, rfl⟩ := eq_encode_of_decode h
  · refine ⟨format_encode i, encode_shows_row i, ?_⟩
    rintro d rfl
    exact toNat_rxSome d
  · exact ⟨rfl, rxNone_shows_row d, nofun⟩

/-! ## Words in bytes (log 11) -/

@[simp] theorem bytesOfNat_length (k n : Nat) : (bytesOfNat k n).length = k := by
  induction k generalizing n with
  | zero => rfl
  | succ k ih => exact congrArg (· + 1) (ih _)

theorem natOfBytes_bytesOfNat {k n : Nat} (h : n < 256 ^ k) : natOfBytes (bytesOfNat k n) = n := by
  induction k generalizing n with
  | zero => simp at h; simp [bytesOfNat, natOfBytes, h]
  | succ k ih =>
    have hrest : n / 256 < 256 ^ k := Nat.div_lt_of_lt_mul (by rwa [pow_succ, Nat.mul_comm] at h)
    rw [bytesOfNat, natOfBytes, ih hrest, BitVec.toNat_ofNat]
    exact Nat.mod_add_div n 256

/-- The bytes of a format hold all the bits of its words. -/
theorem two_pow_width_le (f : Format) : 2 ^ f.width ≤ 256 ^ f.byteCount := by cases f <;> decide

theorem OpWord.bits_lt (w : OpWord) : w.bits < 2 ^ w.format.width := by cases w <;> exact BitVec.isLt _

@[simp] theorem OpWord.word_bits (w : OpWord) : w.format.word w.bits = w := by
  cases w <;> simp [OpWord.format, OpWord.bits, Format.word]

@[simp] theorem Format.format_word (f : Format) (n : Nat) : (f.word n).format = f := by cases f <;> rfl

theorem Format.bits_word {f : Format} {n : Nat} (h : n < 2 ^ f.width) : (f.word n).bits = n := by
  cases f <;> exact Nat.mod_eq_of_lt h

theorem OpWord.natOfBytes_toBytes (w : OpWord) : natOfBytes w.toBytes = w.bits :=
  natOfBytes_bytesOfNat (Nat.lt_of_lt_of_le w.bits_lt (two_pow_width_le _))

/-- Bytes decode exactly when their number and their high bits are the format's and the word they spell decodes. -/
theorem decodeBytes_eq_ok_iff {f : Format} {bs : List Byte} {i : Instr} :
    decodeBytes f bs = .ok i ↔
      bs.length = f.byteCount ∧ natOfBytes bs < 2 ^ f.width ∧ decode (f.word (natOfBytes bs)) = .ok i := by
  rw [decodeBytes]
  split
  · next hlen => simp [hlen]
  · next hlen =>
    split
    · next hhigh => simp [Nat.not_lt.mpr hhigh]
    · next hhigh => simp [not_not.mp hlen, Nat.not_le.mp hhigh]

/-- The bytes of a word that decodes, decode to the same operation. -/
theorem decodeBytes_toBytes {w : OpWord} {i : Instr} (h : decode w = .ok i) :
    decodeBytes w.format w.toBytes = .ok i := by
  rw [decodeBytes_eq_ok_iff, w.natOfBytes_toBytes, w.word_bits]
  exact ⟨bytesOfNat_length _ _, w.bits_lt, h⟩

/-- Settles O2: a case per operation for the word; the bytes spell that word again. -/
theorem encodeDecodeRoundTrip : Obligations.EncodeDecodeRoundTrip := by
  intro i
  refine ⟨decode_encode i, ?_⟩
  rw [← format_encode]
  exact decodeBytes_toBytes (decode_encode i)

/-- Settles O4: the bytes spell a word that decodes, and `row_of_decode` says what such a word shows. -/
theorem decodedBytesShowTheRow : Obligations.DecodedBytesShowTheRow := by
  intro f bs i h
  obtain ⟨hlen, hlt, hword⟩ := decodeBytes_eq_ok_iff.mp h
  obtain ⟨hformat, hrow, hdata⟩ := row_of_decode hword
  rw [Format.bits_word hlt] at hrow hdata
  exact ⟨by rwa [Format.format_word] at hformat, hlen, hlt, hrow, hdata⟩

/-- Settles O1: all but one of these words are the encoder's own. -/
theorem selectorWordsDecode : Obligations.SelectorWordsDecode :=
  ⟨decode_encode .reset, decode_encode (.acceptByte 0xA5#8), decode_encode (.acceptByte 0x00#8), decode_encode .noByte,
    decode_rxNone 0xFF#8, decode_encode .liveActive, decode_encode .liveStale, decode_encode .frameNone,
    decode_encode .frameComplete⟩

/-- Settles O3: the two layouts as numbers, their readings, and the top bit's two cases. -/
theorem rxWordEncodesOptionalByte : Obligations.RxWordEncodesOptionalByte :=
  ⟨fun b => ⟨toNat_rxSome b, decode_rxSome b⟩, fun d => ⟨toNat_rxNone d, decode_rxNone d⟩, rxWord_cases⟩

end Sys2Proof

namespace Sys2Proof.Machine

/-! ## The output levels (R79, R80) -/

theorem otherLevel_ne (l : Level) : otherLevel l ≠ l := by cases l <;> decide

/-- Settles O20: the level driven for an inactive indicator is the other one. -/
theorem pinFollowsIndicator : Obligations.PinFollowsIndicator := by
  intro s
  constructor
  · intro h
    rw [indPin, if_pos h]
  · intro h
    rw [indPin, h]
    exact otherLevel_ne _

/-- Settles O32: in each kind of cycle of `step_cases`, the strobes it writes are the kind's. -/
theorem strobesMarkTheOperations : Obligations.StrobesMarkTheOperations := by
  intro s hi ht
  obtain ⟨hr, e⟩ | ⟨hr, hq, -, e⟩ | ⟨hr, hq, -, e⟩ | ⟨b, q, hr, hq, hn, e⟩ | ⟨b, q, hr, hq, hn, e⟩ :=
    step_cases hi.admitted hi.cursorInRange ht <;> refine ⟨_, e, ?_⟩
  · simp [completes, accepts, hr]
  · simp [completes, accepts_of_empty hq]
  · simp [completes, accepts_of_empty hq]
  · simp [completes, accepts_of_cons hr hq, hr, hn.ne]
  · simp [completes, accepts_of_cons hr hq, hr, hn]

/-! ## The selectors that the slots show (R74, R75) -/

/-- The RX slot runs, and its frame-complete signal stands exactly for the frame's last byte (R103). After a byte the link is not
stale (R122). -/
theorem rxSlot_signals (w : RxWord) {s : State} (hc : s.cursor < s.cfg.frameBytes) :
    ∃ t, rxSlot w s = .next t ∧ (t.complete = true ↔ rxValid w = true ∧ s.cursor + 1 = s.cfg.frameBytes) ∧
      (rxValid w = true → isStale t = false) := by
  cases hv : rxValid w with
  | false => exact ⟨_, rxSlot_noByte hv, by simp, nofun⟩
  | true => exact ⟨_, rxSlot_byte hv hc, by simp [completesFrame], fun _ => staleAt_self _ _⟩

/-- The liveness slot runs and leaves the frame-complete signal. -/
theorem livenessSlot_runs (s : State) : ∃ t, livenessSlot s = .next t ∧ t.complete = s.complete := by
  cases hs : isStale s with
  | false => exact ⟨_, livenessSlot_active hs, rfl⟩
  | true => exact ⟨_, livenessSlot_stale hs, rfl⟩

theorem frameSlot_runs (s : State) : ∃ t, frameSlot s = .next t := by
  cases hc : s.complete with
  | false => exact ⟨_, frameSlot_none hc⟩
  | true => exact ⟨_, frameSlot_complete hc⟩

theorem fcsSelector_eq (s : State) : fcsSelector s = if s.complete = true then 1#1 else 0#1 := rfl

theorem decode_fcsSelector (s : State) :
    decode (.fcs (fcsSelector s)) = .ok (if s.complete = true then .frameComplete else .frameNone) := by
  rw [decode, decodeFcs_fcsSelector]

/-- Settles O22: the liveness slot passes the RX slot's signal on, and the frame selector is that signal. -/
theorem frameSelectorIsLastByte : Obligations.FrameSelectorIsLastByte := by
  intro w s hc
  obtain ⟨s1, h1, hlast, -⟩ := rxSlot_signals w hc
  obtain ⟨s2, h2, hkeep⟩ := livenessSlot_runs s1
  refine ⟨cursor_increment_toNat hc, s1, s2, h1, h2, ?_, ?_⟩
  · simp only [fcsSelector_eq, hkeep, hlast]
  · simp only [decode_fcsSelector, hkeep, hlast]

/-- R77: a byte excludes a stale link and a completed frame needs a byte, which leaves four combinations. -/
theorem reachableSelectors_of {v s c : Bool} (hstale : v = true → s = false) (hbyte : c = true → v = true) :
    reachableSelectors v s c = true := by
  cases v with
  | true =>
    rw [hstale rfl]
    cases c <;> rfl
  | false =>
    rw [Bool.eq_false_iff.mpr fun h => Bool.false_ne_true (hbyte h)]
    cases s <;> rfl

/-- Settles O23: `rxSlot_signals` gives the two facts that `reachableSelectors_of` asks for. -/
theorem onlyFourSelectorCombinations : Obligations.OnlyFourSelectorCombinations := by
  intro w s hc
  obtain ⟨s1, h1, hlast, hfresh⟩ := rxSlot_signals w hc
  obtain ⟨s2, h2, hkeep⟩ := livenessSlot_runs s1
  obtain ⟨s3, h3⟩ := frameSlot_runs s2
  refine ⟨s1, s2, s3, h1, h2, h3, reachableSelectors_of (fun hv => ?_) (fun hf => ?_)⟩
  · simp [lvsSelector, hfresh hv]
  · have hs1 : s1.complete = true := by simpa [fcsSelector, hkeep] using hf
    exact (hlast.mp hs1).1

/-! ## The input records (R73) -/

theorem runSlots_congr_noByte {w w' : RxWord} (s : State) (h : rxValid w = false) (h' : rxValid w' = false) :
    runSlots w s = runSlots w' s := by
  rw [runSlots, runSlots, rxSlot_noByte h, rxSlot_noByte h']

theorem inputCycle_of_not_wellTyped {i : CycleInput} {s : State} (h : i.wellTyped s.cfg = false) :
    inputCycle i s = .refused .illTypedInput := by
  simp [inputCycle, h]

/-- A cycle reads `rx_data` only from an empty queue, and NO_BYTE ignores it. -/
theorem inputCycle_bus (i : CycleInput) (d : Byte) (s : State) : inputCycle { i with bus := d } s = inputCycle i s := by
  cases ht : i.wellTyped s.cfg with
  | false => exact Eq.trans (inputCycle_of_not_wellTyped ht) (inputCycle_of_not_wellTyped ht).symm
  | true =>
    obtain hr | hr := Bool.eq_false_or_eq_true i.rst
    · exact Eq.trans (inputCycle_reset ht hr) (inputCycle_reset ht hr).symm
    · cases hq : (arrive i.arrivals s).rxq with
      | nil =>
        rw [inputCycle_empty (i := i) ht hr hq, ← runSlots_congr_noByte _ (rxValid_rxNone d) (rxValid_rxNone i.bus)]
        exact inputCycle_empty ht hr hq
      | cons b q => exact Eq.trans (inputCycle_cons ht hr hq) (inputCycle_cons ht hr hq).symm

/-- A step with a schedule runs the cycle of its head. -/
theorem step_scheduled {s : State} {i : CycleInput} {is : List CycleInput} (ha : s.cfg.admitted = true)
    (h : s.inputs = i :: is) : step s = inputCycle i { s with inputs := is } := by
  rw [step_of_admitted ha, takeInput_cons h]

/-- A boundary state takes every well-typed record: each kind of cycle answers a next state. -/
theorem step_runs {s : State} (hi : BoundaryInv s) (ht : nextTyped s) : ∃ t, step s = .next t := by
  obtain ⟨-, e⟩ | ⟨-, -, -, e⟩ | ⟨-, -, -, e⟩ | ⟨_, _, -, -, -, e⟩ | ⟨_, _, -, -, -, e⟩ :=
    step_cases hi.admitted hi.cursorInRange ht <;> exact ⟨_, e⟩

theorem step_bus (s : State) (i : CycleInput) (d : Byte) (is : List CycleInput) :
    step { s with inputs := { i with bus := d } :: is } = step { s with inputs := i :: is } := by
  cases ha : s.cfg.admitted with
  | false =>
    calc step { s with inputs := { i with bus := d } :: is }
      _ = .refused .inadmissibleConfig := step_of_not_admitted ha
      _ = step { s with inputs := i :: is } := (step_of_not_admitted (s := { s with inputs := i :: is }) ha).symm
  | true =>
    calc step { s with inputs := { i with bus := d } :: is }
      _ = inputCycle { i with bus := d } { s with inputs := is } := step_scheduled ha rfl
      _ = inputCycle i { s with inputs := is } := inputCycle_bus i d _
      _ = step { s with inputs := i :: is } := (step_scheduled (s := { s with inputs := i :: is }) ha rfl).symm

/-- Settles O26: `step_bus`, the kinds of cycle of `step_cases`, and the check that a cycle begins with. -/
theorem inputsAdmittedAndBusIgnored : Obligations.InputsAdmittedAndBusIgnored := by
  refine ⟨step_bus, fun _ => step_runs, fun s i is ha hin hnow => ?_⟩
  rw [step_scheduled ha hin]
  exact inputCycle_of_not_wellTyped (decide_eq_false (Nat.not_lt.mpr hnow))

/-! ## Arrivals under each policy (D13) -/

theorem offer_dropNew {c : Config} {p : List Byte × List Byte} (b : Byte) (ho : c.rxqOverflow = .dropNew)
    (h : p.1.length ≤ c.rxqDepth) : offer c p b = ((p.1 ++ [b]).take c.rxqDepth, p.2) := by
  by_cases hroom : p.1.length < c.rxqDepth
  · rw [offer_of_room b hroom, List.take_of_length_le (by simpa using hroom)]
  · rw [offer, if_neg hroom, ho, List.take_left' (by omega)]

theorem take_take_append {α : Type} (n : Nat) (l l' : List α) : (l.take n ++ l').take n = (l ++ l').take n := by
  obtain h | h := Nat.le_total l.length n
  · rw [List.take_of_length_le h]
  · rw [List.take_left' (List.length_take_of_le h), List.take_append_of_le_length h]

/-- Under DropNew the oldest bytes stay, as many as the queue holds. -/
theorem offerAll_dropNew {c : Config} {p : List Byte × List Byte} (bs : List Byte) (ho : c.rxqOverflow = .dropNew)
    (h : p.1.length ≤ c.rxqDepth) : offerAll c p bs = ((p.1 ++ bs).take c.rxqDepth, p.2) := by
  induction bs generalizing p with
  | nil => rw [offerAll, List.append_nil, List.take_of_length_le h]
  | cons b bs ih =>
    rw [offerAll, offer_dropNew b ho h, ih (List.length_take_le _ _), List.append_cons p.1 b bs,
      take_take_append]

theorem offer_dropOld {c : Config} {p : List Byte × List Byte} (b : Byte) (ho : c.rxqOverflow = .dropOld)
    (hd : 1 ≤ c.rxqDepth) (h : p.1.length ≤ c.rxqDepth) :
    offer c p b = ((p.1 ++ [b]).drop (p.1.length + 1 - c.rxqDepth), p.2) := by
  by_cases hroom : p.1.length < c.rxqDepth
  · rw [offer_of_room b hroom, Nat.sub_eq_zero_of_le hroom, List.drop_zero]
  · rw [offer, if_neg hroom, ho, show p.1.length + 1 - c.rxqDepth = 1 by omega,
      List.drop_append_of_le_length (by omega), List.drop_one]

/-- Under DropOld the newest bytes stay, as many as the queue holds. -/
theorem offerAll_dropOld {c : Config} {p : List Byte × List Byte} (bs : List Byte) (ho : c.rxqOverflow = .dropOld)
    (hd : 1 ≤ c.rxqDepth) (h : p.1.length ≤ c.rxqDepth) :
    offerAll c p bs = ((p.1 ++ bs).drop ((p.1 ++ bs).length - c.rxqDepth), p.2) := by
  induction bs generalizing p with
  | nil => rw [offerAll, List.append_nil, Nat.sub_eq_zero_of_le h, List.drop_zero]
  | cons b bs ih =>
    rw [offerAll, ih (offer_length hd h), offer_dropOld b ho hd h, List.append_cons p.1 b bs,
      ← List.drop_append_of_le_length (by simp), List.drop_drop]
    congr 2
    simp
    omega

theorem offerAll_keeps_heldOnlyWhileFull {c : Config} {p : List Byte × List Byte} (bs : List Byte)
    (ho : c.rxqOverflow = .stall) (hp : HeldOnlyWhileFull c p) : HeldOnlyWhileFull c (offerAll c p bs) := by
  induction bs generalizing p with
  | nil => exact hp
  | cons b bs ih => exact ih (offer_keeps_heldOnlyWhileFull b ho hp)

/-- A queue within its depth, with bytes held back only while it is full, is where the row of all these bytes is cut at the depth. -/
theorem eq_take_drop_of_heldOnlyWhileFull {c : Config} {p : List Byte × List Byte} (hp : HeldOnlyWhileFull c p)
    (h : p.1.length ≤ c.rxqDepth) : p = ((p.1 ++ p.2).take c.rxqDepth, (p.1 ++ p.2).drop c.rxqDepth) := by
  obtain hroom | hfull := Nat.lt_or_eq_of_le h
  · rw [hp hroom, List.append_nil, List.take_of_length_le h, List.drop_of_length_le h, ← hp hroom]
  · rw [List.take_left' hfull, List.drop_left' hfull]

/-- Under Stall the bytes stay in order, and the queue takes as many as it holds. -/
theorem offerAll_stall {c : Config} {q : List Byte} (bs : List Byte) (ho : c.rxqOverflow = .stall)
    (hd : 1 ≤ c.rxqDepth) (h : q.length ≤ c.rxqDepth) :
    offerAll c (q, []) bs = ((q ++ bs).take c.rxqDepth, (q ++ bs).drop c.rxqDepth) := by
  have hstart : HeldOnlyWhileFull c (q, []) := fun _ => rfl
  have horder := offerAll_stall_append bs ho hstart
  rw [List.append_nil] at horder
  rw [← horder]
  exact eq_take_drop_of_heldOnlyWhileFull (offerAll_keeps_heldOnlyWhileFull bs ho hstart) (offerAll_length bs hd h)

/-- What arrivals write, given what becomes of the bytes offered. -/
theorem arrive_eq {s : State} {bs q held : List Byte} (h : offerAll s.cfg (s.rxq, []) (s.held ++ bs) = (q, held)) :
    arrive bs s = { s with rxq := q, held := held } := by
  rw [arrive, h]

/-- Settles O42: each policy's closed form, by induction on the bytes offered. -/
theorem overflowFollowsPolicy : Obligations.OverflowFollowsPolicy := by
  intro s bs hd hq
  refine ⟨fun ho hh => ?_, fun ho hh => ?_, fun ho => ?_⟩
  · rw [arrive_eq (offerAll_dropNew _ ho hq), hh, List.nil_append]
  · rw [arrive_eq (offerAll_dropOld _ ho hd hq), hh, List.nil_append]
  · rw [arrive_eq (offerAll_stall _ ho hd hq), List.append_assoc]

/-! ## The stimulus script (R85, R86) -/

/-- The records of statements that begin with RESET begin with the record of a reset cycle. -/
theorem compileStmts_reset {acc : List Byte} {t : Nat} {xs : List Stmt} {r : List CycleInput × List Byte}
    (h : compileStmts acc (.reset t :: xs) = some r) :
    ∃ is, r.1 = { arrivals := acc, rst := true, now := t, bus := 0#8 } :: is := by
  rw [compileStmts] at h
  obtain ⟨p, -, rfl⟩ := Option.map_eq_some_iff.mp h
  exact ⟨p.1, rfl⟩

/-- A script that loads: its first two statements, its configuration, and the statements that its records are formed from. -/
theorem loadScript_eq_some {base : Config} {xs : List Stmt} {p : State × List Byte} (h : loadScript base xs = some p) :
    ∃ w ht t tw d t0 zs ys, xs = .config w ht t tw d :: .reset t0 :: zs ∧ p.1.cfg = configOf base w ht t tw d ∧
      compileStmts [] (.reset t0 :: ys) = some (p.1.inputs, p.2) := by
  unfold loadScript at h
  split at h
  · next w ht t tw d t0 zs =>
    dsimp only at h
    split at h
    · cases h
    · next ys _ =>
      obtain ⟨r, hr, rfl⟩ := Option.map_eq_some_iff.mp h
      exact ⟨w, ht, t, tw, d, t0, zs, ys, rfl, rfl, hr⟩
  · cases h

/-- Settles O51: the shape that `loadScript` takes apart, whose records begin with those of its RESET. -/
theorem scriptBeginsWithConfigAndReset : Obligations.ScriptBeginsWithConfigAndReset := by
  intro base xs p h
  obtain ⟨w, ht, t, tw, d, t0, zs, ys, hxs, hcfg, hrecords⟩ := loadScript_eq_some h
  exact ⟨w, ht, t, tw, d, t0, zs, hxs, hcfg, compileStmts_reset hrecords⟩

theorem expandFrame_length (c : Config) (t0 d i : Nat) (bs : List Byte) :
    (expandFrame c t0 d i bs).length = 2 * bs.length := by
  induction bs generalizing i with
  | nil => rfl
  | cons b bs ih =>
    rw [expandFrame, List.length_cons, List.length_cons, ih, List.length_cons]
    omega

/-- The k-th byte of a FRAME, counted on from index `i`, gives the k-th pair of statements. -/
theorem expandFrame_getElem {c : Config} {t0 d i k : Nat} {bs : List Byte} {b : Byte} (h : bs[k]? = some b) :
    (expandFrame c t0 d i bs)[2 * k]? = some (.arrive [b]) ∧
      (expandFrame c t0 d i bs)[2 * k + 1]? = some (.cycle ((t0 + (i + k) * d) % c.timeModulus)) := by
  induction bs generalizing i k with
  | nil => simp at h
  | cons b' bs ih =>
    cases k with
    | zero =>
      cases h
      exact ⟨rfl, rfl⟩
    | succ k =>
      have hk : bs[k]? = some b := h
      rw [show i + (k + 1) = i + 1 + k by omega]
      exact ih hk

/-- The times of a WAIT of a step of at least 1: from t1 on in steps of d, up to t2. -/
theorem expandWait_getElem {t1 t2 d : Nat} (hd : 1 ≤ d) (h : t1 ≤ t2) (k : Nat) :
    ((List.range ((t2 - t1) / d + 1)).map fun j => Stmt.cycle (t1 + j * d))[k]? =
      if t1 + k * d ≤ t2 then some (.cycle (t1 + k * d)) else none := by
  have hlast : k < (t2 - t1) / d + 1 ↔ t1 + k * d ≤ t2 := by
    rw [Nat.lt_succ_iff, Nat.le_div_iff_mul_le hd]
    omega
  by_cases hk : t1 + k * d ≤ t2
  · simp [hk, hlast.mpr hk]
  · simp [hk, mt hlast.mp hk]

theorem expandStmt_wait {c : Config} {t1 t2 d : Nat} (hd : 1 ≤ d) (h : t1 ≤ t2) :
    expandStmt c (.wait t1 t2 d) = some ((List.range ((t2 - t1) / d + 1)).map fun j => .cycle (t1 + j * d)) := by
  rw [expandStmt, if_neg (by omega), if_neg (by omega)]

/-- Settles O52: FRAME by induction on its bytes, WAIT by the bound of its number of steps. -/
theorem pseudoStatementsExpand : Obligations.PseudoStatementsExpand := by
  intro c
  refine ⟨fun b t => rfl, fun t => rfl, fun t0 d bs hlen => ?_, fun t1 t2 d hd h => ?_⟩
  · refine ⟨_, if_pos hlen, expandFrame_length c t0 d 0 bs, fun k b hb => ?_⟩
    simpa using expandFrame_getElem (c := c) (t0 := t0) (d := d) (i := 0) hb
  · exact ⟨_, expandStmt_wait hd h, expandWait_getElem hd h⟩

end Sys2Proof.Machine
end

/-!
Proofs about the RX slot (40_receive.md): RxPoll (R100), ACCEPT_BYTE (R102, R104), NO_BYTE (R106) and what they write (R109), the
liveness of a cycle with a byte (R122, R152), and the bytes of a calm stretch, stored one after another in the order sent (R66,
R105, R144).
-/

namespace Sys2Proof.Machine

/-! ## RX words by their valid bit (R72, R101) -/

/-- The `match` column of ACCEPT_BYTE's row, as a word. -/
theorem rxSome_and_validBit (b : Byte) : rxSome b &&& 0x100#9 = 0x100#9 :=
  BitVec.eq_of_toNat_eq (encode_shows_row (.acceptByte b))

/-- The `match` column of NO_BYTE's row, as a word. -/
theorem rxNone_and_validBit (d : Byte) : rxNone d &&& 0x100#9 = 0x000#9 :=
  BitVec.eq_of_toNat_eq (rxNone_shows_row d)

theorem decode_of_validBit_one {w : RxWord} (h : w &&& 0x100#9 = 0x100#9) :
    decode (.rxw w) = .ok (.acceptByte (rxData w)) := by
  obtain ⟨b, rfl⟩ | ⟨d, rfl⟩ := rxWord_cases w
  · rw [decode_rxSome, rxData_rxSome]
  · rw [rxNone_and_validBit] at h
    exact absurd h (by decide)

theorem decode_of_validBit_zero {w : RxWord} (h : w &&& 0x100#9 = 0x000#9) : decode (.rxw w) = .ok .noByte := by
  obtain ⟨b, rfl⟩ | ⟨d, rfl⟩ := rxWord_cases w
  · rw [rxSome_and_validBit] at h
    exact absurd h (by decide)
  · exact decode_rxNone d

/-! ## The operations of the slot -/

theorem completesFrame_eq_decide (c : Config) (n : Nat) : completesFrame c n = decide (n = c.frameBytes) := rfl

/-- Settles O10: `exec_acceptByte` is the whole effect, and the laws of the buffer say what its write leaves. -/
theorem acceptByteStoresAtCursor : Obligations.AcceptByteStoresAtCursor := by
  refine ⟨fun _ => decode_of_validBit_one, fun d s hwf hc => ?_⟩
  refine ⟨Memory.write s.fb s.cursor d, ?_, Memory.wf_write hwf hc, Memory.read_write_same hwf,
    fun a => Memory.read_write_other hwf⟩
  rw [exec_acceptByte d hc, completesFrame_eq_decide]

theorem exec_noByte (s : State) :
    exec .noByte s = .next { s with n := s.cursor, complete := false, rxPop := false } := rfl

/-- Settles O12: the words by their valid bit, and the operation's equation. -/
theorem noByteKeepsTheBlock : Obligations.NoByteKeepsTheBlock :=
  ⟨fun _ => decode_of_validBit_zero, exec_noByte⟩

/-- Settles O19: the poll of a queue with a head and of an empty one. -/
theorem pollTakesTheHead : Obligations.PollTakesTheHead := by
  refine ⟨fun bus _ _ _ => rxPoll_cons bus, fun bus s h => ?_⟩
  rw [rxPoll_empty bus h]
  exact ⟨rfl, rxValid_rxNone bus⟩

/-! ## A byte and the liveness slot (R122, R152) -/

/-- Settles O24: the byte makes the cycle's time the timestamp; and a frame completes only with a byte, after which the link is not
stale (`rxSlot_signals`). -/
theorem acceptedByteIsNeverStale : Obligations.AcceptedByteIsNeverStale := by
  refine ⟨fun w s hc hv => ?_, fun w s hc => ?_⟩
  · exact ⟨_, rxSlot_byte hv hc, rfl, elapsed_self _ _, staleAt_self _ _, livenessSlot_active (staleAt_self _ _)⟩
  · obtain ⟨s1, h1, hlast, hfresh⟩ := rxSlot_signals w hc
    obtain ⟨s2, h2, hkeep⟩ := livenessSlot_runs s1
    refine ⟨s1, s2, h1, h2, fun ⟨hlvs, hfcs⟩ => ?_⟩
    have hcomplete : s1.complete = true := by simpa [fcsSelector, hkeep] using hfcs
    have hstale : isStale s1 = true := by simpa [lvsSelector] using hlvs
    exact Bool.false_ne_true ((hfresh (hlast.mp hcomplete).1).symm.trans hstale)

/-! ## The writers of cursor and timestamp (R109) -/

/-- Settles O35: what each kind of cycle of `step_cases` writes there. -/
theorem cursorAndTimestampWriters : Obligations.CursorAndTimestampWriters := by
  intro s hi ht
  obtain ⟨hr, e⟩ | ⟨hr, hq, -, e⟩ | ⟨hr, hq, -, e⟩ | ⟨b, q, hr, hq, hn, e⟩ | ⟨b, q, hr, hq, hn, e⟩ :=
    step_cases hi.admitted hi.cursorInRange ht <;> refine ⟨_, e, ?_⟩
  · simp [hr]
  · simp [completes, accepts_of_empty hq, hr]
  · simp [completes, accepts_of_empty hq, hr]
  · simp [completes, accepts_of_cons hr hq, hr, hn.ne]
  · simp [completes, accepts_of_cons hr hq, hr, hn]

/-! ## Bytes stored one after another (R105) -/

/-- The buffer after the bytes of a list are written at rising addresses from `a` on. -/
def storeFrom (m : Memory) (a : Nat) : List Byte → Memory
  | [] => m
  | b :: bs => storeFrom (Memory.write m a b) (a + 1) bs

theorem storeFrom_append (m : Memory) (a : Nat) (bs cs : List Byte) :
    storeFrom m a (bs ++ cs) = storeFrom (storeFrom m a bs) (a + bs.length) cs := by
  induction bs generalizing m a with
  | nil => rfl
  | cons b bs ih =>
    rw [List.cons_append, storeFrom, ih, storeFrom, List.length_cons, Nat.add_right_comm, Nat.add_assoc]

theorem read_storeFrom_outside {size a x : Nat} {m : Memory} {bs : List Byte} (hwf : Memory.wf size m = true)
    (hfit : a + bs.length ≤ size) (hx : x < a ∨ a + bs.length ≤ x) :
    Memory.read (storeFrom m a bs) x = Memory.read m x := by
  induction bs generalizing m a with
  | nil => rfl
  | cons b bs ih =>
    rw [List.length_cons] at hfit hx
    have hwf' := Memory.wf_write (v := b) hwf (show a < size by omega)
    rw [storeFrom, ih hwf' (by omega) (by omega), Memory.read_write_other hwf (by omega)]

theorem read_storeFrom_inside {size a k : Nat} {m : Memory} {bs : List Byte} {b : Byte} (hwf : Memory.wf size m = true)
    (hfit : a + bs.length ≤ size) (hk : bs[k]? = some b) : Memory.read (storeFrom m a bs) (a + k) = b := by
  induction bs generalizing m a k with
  | nil => simp at hk
  | cons c bs ih =>
    rw [List.length_cons] at hfit
    have hwf' := Memory.wf_write (v := c) hwf (show a < size by omega)
    have hfit' : a + 1 + bs.length ≤ size := by omega
    rw [storeFrom]
    cases k with
    | zero =>
      cases hk
      exact (read_storeFrom_outside hwf' hfit' (.inl (Nat.lt_succ_self a))).trans (Memory.read_write_same hwf)
    | succ k =>
      rw [Nat.add_comm k, ← Nat.add_assoc]
      exact ih hwf' hfit' hk

/-- F bytes stored from address 0 on are the whole snapshot. -/
theorem snapshot_storeFrom {size : Nat} {m : Memory} {bs : List Byte} (hwf : Memory.wf size m = true)
    (hlen : bs.length = size) : Memory.snapshot size (storeFrom m 0 bs) = bs := by
  refine List.ext_getElem (by simp [hlen]) fun k _ hk => ?_
  have hread := read_storeFrom_inside (a := 0) hwf (by omega) (List.getElem?_eq_getElem hk)
  simpa [Memory.snapshot] using hread

/-! ## Bytes on their way (R66, D13) -/

/-- Where no byte is lost, those that arrive wait behind those that were waiting. -/
theorem waiting_arrive {s : State} {bs : List Byte} (hi : BoundaryInv s)
    (hkept : s.cfg.rxqOverflow = .stall ∨ (waiting s).length + bs.length ≤ s.cfg.rxqDepth) :
    waiting (arrive bs s) = waiting s ++ bs := by
  by_cases ho : s.cfg.rxqOverflow = .stall
  · exact stallLosesNoByte s bs ho
  · have hheld := hi.heldOnlyUnderStall ho
    have hroom : s.rxq.length + bs.length ≤ s.cfg.rxqDepth := by simpa [waiting, hheld, ho] using hkept
    simp [arrive_room hheld hroom, waiting, hheld]

/-- A cycle that starts with no byte in the queue starts with none held back. -/
theorem arrived_held_of_rxq_nil {s : State} (hi : BoundaryInv s) (hq : (arrived s).rxq = []) : (arrived s).held = [] := by
  by_cases ho : s.cfg.rxqOverflow = .stall
  · obtain ⟨-, -, -, -, hdepth⟩ := admitted_iff.mp hi.admitted
    have hfull : HeldOnlyWhileFull s.cfg ((arrived s).rxq, (arrived s).held) := by
      unfold arrived takeInput
      split <;> exact offerAll_keeps_heldOnlyWhileFull _ ho fun _ => rfl
    exact hfull (by rwa [hq])
  · exact arrived_held ho

/-- The first byte on its way is at the head of the queue when the cycle polls. -/
theorem arrived_rxq_of_waiting_cons {s : State} {b : Byte} {w : List Byte} (hi : BoundaryInv s)
    (hw : waiting (arrived s) = b :: w) : ∃ q, (arrived s).rxq = b :: q ∧ q ++ (arrived s).held = w := by
  unfold waiting at hw
  cases hq : (arrived s).rxq with
  | nil => simp [hq, arrived_held_of_rxq_nil hi hq] at hw
  | cons c q =>
    rw [hq, List.cons_append] at hw
    cases hw
    exact ⟨q, rfl, rfl⟩

/-- The start of a scheduled cycle. -/
theorem next_of_inputs {s : State} {i : CycleInput} {is : List CycleInput} (h : s.inputs = i :: is) :
    nextInput s = i ∧ arrived s = arrive i.arrivals { s with inputs := is } := by
  simp [nextInput, arrived, takeInput_cons h]

/-- Before a scheduled cycle that loses no byte, its arrivals join the bytes on their way. -/
theorem waiting_arrived {s : State} {i : CycleInput} {is : List CycleInput} (hi : BoundaryInv s) (h : s.inputs = i :: is)
    (hkept : s.cfg.rxqOverflow = .stall ∨ (waiting s).length + i.arrivals.length ≤ s.cfg.rxqDepth) :
    waiting (arrived s) = waiting s ++ i.arrivals := by
  have hi' : BoundaryInv { s with inputs := is } := { hi with }
  rw [(next_of_inputs h).2]
  exact waiting_arrive hi' hkept

/-! ## Cycles that complete no frame -/

/-- What calm cycles `is` that store the bytes `bs`, too few to complete the frame, make of `s`. The bytes stored were the first of
those on their way, and the others still are. -/
structure Stored (s : State) (is : List CycleInput) (bs : List Byte) (t : State) : Prop where
  boundary : BoundaryInv t
  cfg : t.cfg = s.cfg
  presents : t.presents = s.presents
  buffer : t.fb = storeFrom s.fb s.cursor bs
  cursor : t.cursor = s.cursor + bs.length
  indTrace : t.indTrace = s.indTrace ++ List.replicate is.length true
  onTheWay : waiting s ++ arrivedBytes is = bs ++ waiting t
  schedule : s.inputs = is ++ t.inputs

theorem Stored.refl {s : State} (hi : BoundaryInv s) : Stored s [] [] s where
  boundary := hi
  cfg := rfl
  presents := rfl
  buffer := rfl
  cursor := rfl
  indTrace := (List.append_nil _).symm
  onTheWay := List.append_nil _
  schedule := rfl

theorem Stored.trans {s t u : State} {is js : List CycleInput} {bs cs : List Byte} (h : Stored s is bs t)
    (h' : Stored t js cs u) : Stored s (is ++ js) (bs ++ cs) u where
  boundary := h'.boundary
  cfg := h'.cfg.trans h.cfg
  presents := h'.presents.trans h.presents
  buffer := by rw [h'.buffer, h.buffer, h.cursor, storeFrom_append]
  cursor := by rw [h'.cursor, h.cursor, List.length_append, Nat.add_assoc]
  indTrace := by
    rw [h'.indTrace, h.indTrace, List.append_assoc, List.replicate_append_replicate, List.length_append]
  onTheWay := by
    rw [arrivedBytes_append, ← List.append_assoc, h.onTheWay, List.append_assoc, h'.onTheWay, List.append_assoc]
  schedule := by rw [h.schedule, h'.schedule, List.append_assoc]

/-- A cycle with no byte on its way and the link active stores nothing. -/
theorem step_stores_nothing {s : State} {i : CycleInput} {is : List CycleInput} (hi : BoundaryInv s)
    (hin : s.inputs = i :: is) (ht : i.wellTyped s.cfg = true) (hr : i.rst = false)
    (hkept : waiting (arrived s) = waiting s ++ i.arrivals) (hw : waiting (arrived s) = [])
    (hs : staleAt s.cfg i.now s.lastT = false) :
    ∃ t, step s = .next t ∧ Stored s [i] [] t ∧ t.lastT = s.lastT := by
  obtain ⟨rfl, -⟩ := next_of_inputs hin
  obtain ⟨hq, -⟩ := List.append_eq_nil_iff.mp hw
  have hstep := step_idle_active hi.admitted ht hr hq hs
  exact ⟨_, hstep,
    { boundary := stepKeepsInvariant s _ hi hstep
      cfg := parametersNeverChange s _ hstep
      presents := arrived_presents s
      buffer := arrived_fb s
      cursor := arrived_cursor s
      indTrace := rfl
      onTheWay := by rw [arrivedBytes_cons, arrivedBytes_nil, List.append_nil, ← hkept]; rfl
      schedule := by simp [arrived_inputs, hin] },
    arrived_lastT s⟩

/-- A cycle that takes a byte short of the frame's last stores that byte. -/
theorem step_stores_byte {s : State} {i : CycleInput} {is : List CycleInput} {b : Byte} {w : List Byte}
    (hi : BoundaryInv s) (hin : s.inputs = i :: is) (ht : i.wellTyped s.cfg = true) (hr : i.rst = false)
    (hkept : waiting (arrived s) = waiting s ++ i.arrivals) (hw : waiting (arrived s) = b :: w)
    (hn : s.cursor + 1 < s.cfg.frameBytes) :
    ∃ t, step s = .next t ∧ Stored s [i] [b] t ∧ t.lastT = i.now := by
  obtain ⟨rfl, -⟩ := next_of_inputs hin
  obtain ⟨q, hq, hrest⟩ := arrived_rxq_of_waiting_cons hi hw
  have hstep := step_byte_none hi.admitted ht hr hq hn
  exact ⟨_, hstep,
    { boundary := stepKeepsInvariant s _ hi hstep
      cfg := parametersNeverChange s _ hstep
      presents := arrived_presents s
      buffer := rfl
      cursor := rfl
      indTrace := rfl
      onTheWay := by rw [arrivedBytes_cons, arrivedBytes_nil, List.append_nil, ← hkept, hw, ← hrest]; rfl
      schedule := by simp [arrived_inputs, hin] },
    rfl⟩

/-! ## Calm stretches (R105, R144) -/

/-- The first cycle of a calm stretch that is short of the frame's end: it stores a byte or none, and leaves the rest of the stretch
calm. -/
theorem step_calm_stores {s : State} {i : CycleInput} {is rest : List CycleInput} (hi : BoundaryInv s)
    (hin : s.inputs = i :: rest) (hcalm : calm s.cfg s.lastT (waiting s).length (i :: is) = true)
    (hshort : s.cursor + taken (waiting s).length (i :: is) < s.cfg.frameBytes) :
    ∃ t bs, step s = .next t ∧ Stored s [i] bs t ∧ calm s.cfg t.lastT (waiting t).length is = true ∧
      taken (waiting s).length (i :: is) = bs.length + taken (waiting t).length is := by
  obtain ⟨hr, ht, hkept, hrest⟩ := calm_cons_iff.mp hcalm
  have harrived := waiting_arrived hi hin hkept
  have hlen : (waiting s).length + i.arrivals.length = (waiting (arrived s)).length := by
    rw [harrived, List.length_append]
  rw [hlen] at hrest
  cases hw : waiting (arrived s) with
  | nil =>
    rw [hw, List.length_nil] at hlen
    obtain ⟨hs, hrest⟩ : staleAt s.cfg i.now s.lastT = false ∧ calm s.cfg s.lastT 0 is = true := by
      simpa [hw] using hrest
    obtain ⟨t, hstep, hst, hlast⟩ := step_stores_nothing hi hin ht hr harrived hw hs
    have hleft : waiting t = [] := by simpa [← harrived, hw] using hst.onTheWay.symm
    refine ⟨t, [], hstep, hst, ?_, ?_⟩
    · rwa [hlast, hleft]
    · rw [taken_cons_zero hlen, hleft, List.length_nil, Nat.zero_add]
  | cons b w =>
    rw [hw, List.length_cons] at hlen
    have htaken : taken (waiting s).length (i :: is) = taken w.length is + 1 := by
      rw [taken_cons_pos (by omega), hlen, Nat.add_sub_cancel]
    obtain ⟨t, hstep, hst, hlast⟩ := step_stores_byte hi hin ht hr harrived hw (by omega)
    have hleft : waiting t = w := by simpa [← harrived, hw] using hst.onTheWay.symm
    refine ⟨t, [b], hstep, hst, ?_, ?_⟩
    · simpa [hw, hlast, hleft] using hrest
    · rw [htaken, hleft, List.length_singleton, Nat.add_comm]

/-- A calm stretch that takes too few bytes to complete the frame stores them in the order sent. -/
theorem run_calm_stores {s : State} {is rest : List CycleInput} (hi : BoundaryInv s) (hin : s.inputs = is ++ rest)
    (hcalm : calm s.cfg s.lastT (waiting s).length is = true)
    (hshort : s.cursor + taken (waiting s).length is < s.cfg.frameBytes) :
    ∃ t bs, Host.Core.run Sys2Proof.core is.length s = .next t ∧ Stored s is bs t ∧
      bs.length = taken (waiting s).length is := by
  induction is generalizing s with
  | nil => exact ⟨s, [], rfl, .refl hi, rfl⟩
  | cons i is ih =>
    obtain ⟨t, bs, hstep, hst, hcalm', htaken⟩ := step_calm_stores hi hin hcalm hshort
    have hin' : t.inputs = is ++ rest := (List.cons.inj (hst.schedule.symm.trans hin)).2
    obtain ⟨u, cs, hrun, hst', hlen⟩ := ih hst.boundary hin' (by rwa [hst.cfg])
      (by rw [hst.cursor, hst.cfg]; omega)
    refine ⟨u, bs ++ cs, ?_, hst.trans hst', ?_⟩
    · rw [List.length_cons, run_succ_of_step _ hstep, hrun]
    · rw [List.length_append, hlen, htaken]

/-- Settles O47: `run_calm_stores` gives the state after the stretch, and the laws of `storeFrom` read its buffer. -/
theorem shortStretchNeverPresents : Obligations.ShortStretchNeverPresents := by
  intro s is rest hi hin hcalm hshort
  obtain ⟨t, bs, hrun, hst, hlen⟩ := run_calm_stores hi hin hcalm hshort
  rw [← hlen] at hshort ⊢
  refine ⟨t, hrun, hst.presents, hst.cursor, fun k b hk hb => ?_, fun a ha => ?_, hst.indTrace, ?_, ?_⟩
  · rw [hst.onTheWay, List.getElem?_append_left hk] at hb
    rw [hst.buffer]
    exact read_storeFrom_inside hi.bufferWf hshort.le hb
  · rw [hst.buffer]
    exact read_storeFrom_outside hi.bufferWf hshort.le ha
  · rw [hst.onTheWay, List.drop_left]
  · exact List.append_cancel_left (hst.schedule.symm.trans hin)

/-- The cycle that takes the frame's last byte presents the frame. -/
theorem step_completes {s : State} {i : CycleInput} {is : List CycleInput} {b : Byte} {w : List Byte} (hi : BoundaryInv s)
    (hin : s.inputs = i :: is) (ht : i.wellTyped s.cfg = true) (hr : i.rst = false)
    (hw : waiting (arrived s) = b :: w) (hn : s.cursor + 1 = s.cfg.frameBytes) :
    ∃ t, step s = .next t ∧
      t.presents = s.presents ++
        [⟨.frame, Memory.snapshot s.cfg.frameBytes (Memory.write s.fb s.cursor b), i.now⟩] ∧
      t.indTrace = s.indTrace ++ [true] ∧ t.cursor = 0 ∧ t.lastT = i.now ∧ t.rxq = [] ∧ t.inputs = is := by
  obtain ⟨rfl, -⟩ := next_of_inputs hin
  obtain ⟨q, hq, -⟩ := arrived_rxq_of_waiting_cons hi hw
  exact ⟨_, step_byte_complete hi.admitted ht hr hq hn, rfl, rfl, rfl, rfl, rfl, by simp [arrived_inputs, hin]⟩

/-- A cycle that takes a byte starts with one on its way. -/
theorem exists_cons_of_taken {w : List Byte} {i : CycleInput} (h : taken w.length [i] ≠ 0) :
    ∃ b v, w ++ i.arrivals = b :: v := by
  cases hw : w ++ i.arrivals with
  | nil => exact absurd (taken_cons_zero (by rw [← List.length_append, hw, List.length_nil])) h
  | cons b v => exact ⟨b, v, rfl⟩

/-- Settles O46: all but the last cycle are a short stretch (`run_calm_stores`); the last takes the next byte on its way, and the F
bytes stored from address 0 on are the snapshot. -/
theorem frameHoldsBytesInArrivalOrder : Obligations.FrameHoldsBytesInArrivalOrder := by
  intro s is rest i hi hcur hin hcalm hbefore hlast
  obtain ⟨hcalmInit, l, hcalmLast⟩ := calm_snoc hcalm
  obtain ⟨u, bs, hrun, hst, hlen⟩ := run_calm_stores hi hin hcalmInit (by omega)
  have hleft : (waiting s).length + (arrivedBytes is).length - taken (waiting s).length is = (waiting u).length := by
    rw [← List.length_append, hst.onTheWay, List.length_append, hlen, Nat.add_sub_cancel_left]
  rw [hleft] at hcalmLast
  rw [taken_snoc, hleft] at hlast
  obtain ⟨hr, ht, hkept, -⟩ := calm_cons_iff.mp hcalmLast
  have hinputs : u.inputs = i :: rest := List.append_cancel_left (hst.schedule.symm.trans hin)
  obtain ⟨b, w, hw⟩ := exists_cons_of_taken (w := waiting u) (i := i) (by omega)
  have harrived : waiting (arrived u) = b :: w := (waiting_arrived hst.boundary hinputs (by rwa [hst.cfg])).trans hw
  have hF : (bs ++ [b]).length = s.cfg.frameBytes := by rw [List.length_append, hlen]; exact hbefore
  have hbytes : (waiting s ++ arrivedBytes (is ++ [i])).take s.cfg.frameBytes = bs ++ [b] := by
    rw [arrivedBytes_append, ← List.append_assoc, hst.onTheWay, arrivedBytes_cons, arrivedBytes_nil, List.append_nil,
      List.append_assoc, hw, List.append_cons, List.take_left' hF]
  have hbuffer : Memory.write u.fb u.cursor b = storeFrom s.fb 0 (bs ++ [b]) := by
    rw [storeFrom_append, hst.buffer, hst.cursor, hcur]
    rfl
  obtain ⟨t, hstep, hpresents, htrace, hend⟩ := step_completes hst.boundary hinputs (by rwa [hst.cfg]) hr harrived
    (by rw [hst.cursor, hst.cfg]; omega)
  refine ⟨t, ?_, ?_, ?_, hend⟩
  · rw [run_add _ 1 hrun, run_succ_of_step 0 hstep]
    rfl
  · rw [hpresents, hst.presents, hst.cfg, hbuffer, snapshot_storeFrom hi.bufferWf hF, hbytes]
  · rw [htrace, hst.indTrace, List.append_assoc, ← List.replicate_succ']

end Sys2Proof.Machine

/-!
Proofs about the liveness slot (41_liveness.md): the elapsed time and its threshold (R121, R129, R130), LIVE_ACTIVE and LIVE_STALE
(R123, R125), what they read and leave (R124, R128, R131), and the cycles of and after a timeout (R126, R127).
-/

namespace Sys2Proof.Machine

/-! ## Elapsed time (R121, R129, R130) -/

/-- R121: the subtraction of TIME_W-bit values is the difference modulo 2^TIME_W. -/
theorem elapsed_eq_mod {w now last : Nat} (hnow : now < 2 ^ w) (hlast : last < 2 ^ w) :
    elapsed w now last = (now + (2 ^ w - last)) % 2 ^ w := by
  rw [elapsed, BitVec.toNat_sub, BitVec.toNat_ofNat, BitVec.toNat_ofNat, Nat.mod_eq_of_lt hnow, Nat.mod_eq_of_lt hlast,
    Nat.add_comm]

/-- R130: a time base of TIME_W bits cannot tell a silence of `D` from one of `D` less a multiple of 2^TIME_W. -/
theorem elapsed_silence (w last D : Nat) : elapsed w ((last + D) % 2 ^ w) last = D % 2 ^ w := by
  have hsum : BitVec.ofNat w ((last + D) % 2 ^ w) = BitVec.ofNat w D + BitVec.ofNat w last :=
    BitVec.eq_of_toNat_eq (by simp [Nat.add_comm])
  rw [elapsed, hsum, BitVec.add_sub_cancel, BitVec.toNat_ofNat]

/-- A silence shorter than the wrap reads as it is, whether or not the time base wraps in it. -/
theorem elapsed_silence_of_lt {w D : Nat} (last : Nat) (hD : D < 2 ^ w) : elapsed w ((last + D) % 2 ^ w) last = D := by
  rw [elapsed_silence, Nat.mod_eq_of_lt hD]

/-- Where the time base has not wrapped, the elapsed time is the difference. -/
theorem elapsed_of_le {w now last : Nat} (hle : last ≤ now) (hnow : now < 2 ^ w) : elapsed w now last = now - last := by
  have h := elapsed_silence_of_lt last (Nat.lt_of_le_of_lt (Nat.sub_le now last) hnow)
  rwa [Nat.add_sub_cancel' hle, Nat.mod_eq_of_lt hnow] at h

/-- Settles O8: a silence reads modulo the wrap, and the remainder of one is at most itself. -/
theorem silenceReadsModuloWrap : Obligations.SilenceReadsModuloWrap := by
  refine fun c last D _ => ⟨elapsed_silence _ _ _, fun k r hD hr => staleAt_eq_false_iff.mpr ?_⟩
  calc elapsed c.timeW ((last + D) % c.timeModulus) last
    _ = D % c.timeModulus := elapsed_silence _ _ _
    _ = r % c.timeModulus := by rw [hD, Nat.mul_add_mod_self_right]
    _ ≤ r := Nat.mod_le _ _
    _ ≤ c.tMs := hr

/-- Settles O9: both T_MS and T_MS + 1 are shorter than the wrap, so each reads as it is. -/
theorem thresholdIsStrict : Obligations.ThresholdIsStrict := by
  intro c last hadmitted _
  have hfit := tMs_succ_lt_of_admitted hadmitted
  refine ⟨staleAt_eq_false_iff.mpr ?_, staleAt_eq_true_iff.mpr ?_, fun now hle hnow => ?_⟩
  · exact (elapsed_silence_of_lt last (Nat.lt_of_succ_lt hfit)).le
  · exact (elapsed_silence_of_lt last hfit).symm ▸ Nat.lt_succ_self c.tMs
  · rw [staleAt_eq_true_iff, elapsed_of_le hle hnow]
    omega

/-! ## The selector and its operations (R74, R123, R125) -/

theorem isStale_eq_true_iff {s : State} : isStale s = true ↔ s.cfg.tMs < elapsed s.cfg.timeW s.now s.lastT :=
  staleAt_eq_true_iff

theorem lvsSelector_eq (s : State) : lvsSelector s = if isStale s = true then 1#1 else 0#1 := rfl

theorem decode_lvsSelector (s : State) :
    decode (.lvs (lvsSelector s)) = .ok (if isStale s = true then .liveStale else .liveActive) := by
  rw [decode, decodeLvs_lvsSelector]

/-- Settles O7: the subtraction of words, and the selector as the word of `isStale`. -/
theorem elapsedIsModularAndSelects : Obligations.ElapsedIsModularAndSelects := by
  refine ⟨fun w now last hnow hlast => ⟨elapsed_eq_mod hnow hlast, elapsed_lt w now last⟩, fun s => ⟨?_, ?_⟩⟩
  · simp only [lvsSelector_eq, isStale_eq_true_iff]
  · simp only [decode_lvsSelector, isStale_eq_true_iff]

theorem exec_liveActive (s : State) : exec .liveActive s = .next { s with ind := true } := rfl

/-- The buffer is cleared before the present takes its snapshot, which is therefore F zeros. -/
theorem exec_liveStale (s : State) :
    exec .liveStale s =
      .next { s with ind := false, fb := Memory.blank,
                     presents := s.presents ++ [⟨.blank, List.replicate s.cfg.frameBytes 0#8, s.now⟩] } := by
  rw [← Memory.snapshot_blank]
  rfl

/-- Settles O13: the word of LIVE_ACTIVE's row, and the operation's equation. -/
theorem liveActiveDrivesIndicator : Obligations.LiveActiveDrivesIndicator :=
  ⟨decode_encode .liveActive, exec_liveActive⟩

/-- Settles O14: the word of LIVE_STALE's row, and the operation's equation with the blank buffer. -/
theorem liveStaleBlanksAndPresents : Obligations.LiveStaleBlanksAndPresents :=
  ⟨decode_encode .liveStale, fun s => ⟨Memory.blank, exec_liveStale s, Memory.read_blank⟩⟩

/-! ## What a cycle makes of indicator and timestamp (R124, R128) -/

/-- The fields that the liveness slot reads or writes in every running cycle, after a cycle of any kind. -/
theorem step_liveness {s : State} (hi : BoundaryInv s) (ht : nextTyped s) :
    ∃ t, step s = .next t ∧
      t.ind = (if resets s then s.cfg.indAtReset else !staleAt s.cfg (nextInput s).now (timestampSeen s)) ∧
      t.indTrace =
        s.indTrace ++ (if resets s then [] else [!staleAt s.cfg (nextInput s).now (timestampSeen s)]) ∧
      t.lastT = (if resets s then (nextInput s).now else timestampSeen s) := by
  obtain ⟨hr, e⟩ | ⟨hr, hq, hs, e⟩ | ⟨hr, hq, hs, e⟩ | ⟨b, q, hr, hq, -, e⟩ | ⟨b, q, hr, hq, -, e⟩ :=
    step_cases hi.admitted hi.cursorInRange ht <;> refine ⟨_, e, ?_⟩
  · simp [hr]
  · simp [timestampSeen, accepts_of_empty hq, hr, hs]
  · simp [timestampSeen, accepts_of_empty hq, hr, hs]
  · simp [timestampSeen, accepts_of_cons hr hq, hr]
  · simp [timestampSeen, accepts_of_cons hr hq, hr]

/-- R79: the pin is at its active level for an active indicator only. -/
theorem indPin_eq_active_iff (s : State) : indPin s = s.cfg.indActiveLevel ↔ s.ind = true := by
  obtain ⟨hactive, hinactive⟩ := pinFollowsIndicator s
  refine ⟨fun hpin => ?_, hactive⟩
  by_contra hind
  exact hinactive (Bool.eq_false_iff.mpr hind) hpin

/-- Settles O33: `step_liveness` for a running cycle; no step changes the pin's active level. -/
theorem indicatorIsNotStale : Obligations.IndicatorIsNotStale := by
  refine ⟨fun _ _ => rfl, fun s hi ht hr => ?_⟩
  obtain ⟨t, hstep, hind, -, -⟩ := step_liveness hi ht
  refine ⟨t, hstep, by simpa [hr] using hind, ?_⟩
  rw [← parametersNeverChange s t hstep]
  exact indPin_eq_active_iff t

/-! ## Independence from assembly (R131) -/

/-- `s` with another cursor and another buffer. -/
def withAssembly (cur : Nat) (m : Memory) (s : State) : State := { s with cursor := cur, fb := m }

@[simp] theorem withAssembly_cfg (cur : Nat) (m : Memory) (s : State) : (withAssembly cur m s).cfg = s.cfg := rfl
@[simp] theorem withAssembly_lastT (cur : Nat) (m : Memory) (s : State) : (withAssembly cur m s).lastT = s.lastT := rfl
@[simp] theorem withAssembly_rxq (cur : Nat) (m : Memory) (s : State) : (withAssembly cur m s).rxq = s.rxq := rfl

/-- Neither the input record nor the arrivals depend on the assembly. -/
theorem takeInput_withAssembly (cur : Nat) (m : Memory) (s : State) :
    takeInput (withAssembly cur m s) = ((takeInput s).1, withAssembly cur m (takeInput s).2) := by
  cases h : s.inputs with
  | nil => rw [takeInput_nil h, takeInput_nil (s := withAssembly cur m s) h]; rfl
  | cons i is => rw [takeInput_cons h, takeInput_cons (s := withAssembly cur m s) h]; rfl

@[simp] theorem nextInput_withAssembly (cur : Nat) (m : Memory) (s : State) :
    nextInput (withAssembly cur m s) = nextInput s := by
  rw [nextInput, takeInput_withAssembly, nextInput]

@[simp] theorem arrived_withAssembly (cur : Nat) (m : Memory) (s : State) :
    arrived (withAssembly cur m s) = withAssembly cur m (arrived s) := by
  rw [arrived, nextInput_withAssembly, takeInput_withAssembly]
  rfl

@[simp] theorem resets_withAssembly (cur : Nat) (m : Memory) (s : State) :
    resets (withAssembly cur m s) = resets s := by
  simp [resets]

@[simp] theorem timestampSeen_withAssembly (cur : Nat) (m : Memory) (s : State) :
    timestampSeen (withAssembly cur m s) = timestampSeen s := by
  simp [timestampSeen, accepts]

@[simp] theorem staleNext_withAssembly (cur : Nat) (m : Memory) (s : State) :
    staleNext (withAssembly cur m s) = staleNext s := by
  simp [staleNext]

/-- The liveness slot runs the same operation whatever the assembly, and only its clear touches it. -/
theorem livenessSlot_withAssembly (cur : Nat) (m : Memory) (s : State) :
    ∃ t, livenessSlot s = .next t ∧ t.cursor = s.cursor ∧ t.phase = s.phase ∧ t.lastT = s.lastT ∧
      livenessSlot (withAssembly cur m s) = .next (withAssembly cur (if lvsSelector s = 1#1 then t.fb else m) t) := by
  have hsel : lvsSelector s = 1#1 ↔ isStale s = true := selectorOf_eq_one _
  cases hs : isStale s with
  | false =>
    refine ⟨_, livenessSlot_active hs, rfl, rfl, rfl, ?_⟩
    rw [if_neg (by rw [hsel, hs]; decide)]
    exact livenessSlot_active (s := withAssembly cur m s) hs
  | true =>
    refine ⟨_, livenessSlot_stale hs, rfl, rfl, rfl, ?_⟩
    rw [if_pos (hsel.mpr hs)]
    exact livenessSlot_stale (s := withAssembly cur m s) hs

/-- R122: a stale cycle is a running one that finds no byte. -/
theorem idle_of_staleNext {s : State} (h : staleNext s = true) :
    resets s = false ∧ (arrived s).rxq = [] ∧ staleAt s.cfg (nextInput s).now s.lastT = true := by
  cases hr : resets s with
  | true => simp [staleNext, hr] at h
  | false =>
    cases hq : (arrived s).rxq with
    | nil => exact ⟨rfl, rfl, by rwa [staleNext_of_empty hr hq] at h⟩
    | cons b q => exact absurd ((staleNext_of_cons hr hq).symm.trans h) Bool.false_ne_true

/-- What a stale cycle leaves and presents (R125, R127). -/
theorem step_stale {s : State} (ha : s.cfg.admitted = true) (ht : nextTyped s) (h : staleNext s = true) :
    ∃ t, step s = .next t ∧
      t.presents = s.presents ++ [⟨.blank, List.replicate s.cfg.frameBytes 0#8, (nextInput s).now⟩] ∧
      t.fb = Memory.blank ∧ t.cursor = s.cursor := by
  obtain ⟨hr, hq, hs⟩ := idle_of_staleNext h
  exact ⟨_, step_idle_stale ha ht hr hq hs, rfl, rfl, arrived_cursor s⟩

/-- Settles O41: the slot by `livenessSlot_withAssembly`; of a step, `step_liveness` and `step_stale` speak of nothing that the
assembly has a part in. -/
theorem livenessIgnoresAssembly : Obligations.LivenessIgnoresAssembly := by
  refine ⟨fun s cur m => ⟨rfl, livenessSlot_withAssembly cur m s⟩, fun s cur m hi hi' ht => ?_⟩
  change BoundaryInv (withAssembly cur m s) at hi'
  have ht' : nextTyped (withAssembly cur m s) := by
    rw [nextTyped, nextInput_withAssembly]
    exact ht
  obtain ⟨t, hstep, hind, htrace, hlast⟩ := step_liveness hi ht
  obtain ⟨t', hstep', hind', htrace', hlast'⟩ := step_liveness hi' ht'
  rw [resets_withAssembly, nextInput_withAssembly, timestampSeen_withAssembly] at hind' htrace' hlast'
  refine ⟨t, t', hstep, hstep', hind.trans hind'.symm, hlast.trans hlast'.symm, htrace.trans htrace'.symm, fun hs => ?_⟩
  obtain ⟨u, hu, hpresents, hfb, hcursor⟩ := step_stale hi.admitted ht hs
  obtain ⟨u', hu', hpresents', hfb', hcursor'⟩ :=
    step_stale hi'.admitted ht' ((staleNext_withAssembly cur m s).trans hs)
  rw [nextInput_withAssembly] at hpresents'
  cases hstep.symm.trans hu
  cases hstep'.symm.trans hu'
  exact ⟨hpresents.trans hpresents'.symm, hfb.trans hfb'.symm, hcursor, hcursor'⟩

/-! ## Silent stale stretches (R126, R127, R128) -/

/-- What silent cycles `is` in which the link is stale make of `s`. -/
structure Blanked (s : State) (is : List CycleInput) (t : State) : Prop where
  boundary : BoundaryInv t
  cfg : t.cfg = s.cfg
  cursor : t.cursor = s.cursor
  lastT : t.lastT = s.lastT
  presents : t.presents = s.presents ++ is.map fun i => ⟨.blank, List.replicate s.cfg.frameBytes 0#8, i.now⟩
  indTrace : t.indTrace = s.indTrace ++ List.replicate is.length false
  onTheWay : waiting t = []
  schedule : s.inputs = is ++ t.inputs

theorem Blanked.refl {s : State} (hi : BoundaryInv s) (hw : waiting s = []) : Blanked s [] s where
  boundary := hi
  cfg := rfl
  cursor := rfl
  lastT := rfl
  presents := (List.append_nil _).symm
  indTrace := (List.append_nil _).symm
  onTheWay := hw
  schedule := rfl

theorem Blanked.trans {s t u : State} {is js : List CycleInput} (h : Blanked s is t) (h' : Blanked t js u) :
    Blanked s (is ++ js) u where
  boundary := h'.boundary
  cfg := h'.cfg.trans h.cfg
  cursor := h'.cursor.trans h.cursor
  lastT := h'.lastT.trans h.lastT
  presents := by rw [h'.presents, h.presents, h.cfg, List.append_assoc, List.map_append]
  indTrace := by
    rw [h'.indTrace, h.indTrace, List.append_assoc, List.replicate_append_replicate, List.length_append]
  onTheWay := h'.onTheWay
  schedule := by rw [h.schedule, h'.schedule, List.append_assoc]

theorem silentStale_cons_iff {c : Config} {last : Nat} {i : CycleInput} {is : List CycleInput} :
    silentStale c last (i :: is) = true ↔
      (i.rst = false ∧ i.wellTyped c = true ∧ i.arrivals = [] ∧ staleAt c i.now last = true) ∧
        silentStale c last is = true := by
  simp [silentStale, and_assoc]

/-- A silent cycle in which the link is stale, with nothing on its way. -/
theorem step_blanks {s : State} {i : CycleInput} {is rest : List CycleInput} (hi : BoundaryInv s) (hw : waiting s = [])
    (hin : s.inputs = i :: rest) (h : silentStale s.cfg s.lastT (i :: is) = true) :
    ∃ t, step s = .next t ∧ Blanked s [i] t ∧ t.fb = Memory.blank := by
  obtain ⟨⟨hr, ht, harrivals, hs⟩, -⟩ := silentStale_cons_iff.mp h
  have hsilent : waiting (arrived s) = [] := by
    rw [waiting_arrived hi hin (.inr (by simp [hw, harrivals])), hw, harrivals, List.append_nil]
  obtain ⟨hq, -⟩ := List.append_eq_nil_iff.mp hsilent
  obtain ⟨rfl, -⟩ := next_of_inputs hin
  have hstep := step_idle_stale hi.admitted ht hr hq hs
  exact ⟨_, hstep,
    { boundary := stepKeepsInvariant s _ hi hstep
      cfg := parametersNeverChange s _ hstep
      cursor := arrived_cursor s
      lastT := arrived_lastT s
      presents := rfl
      indTrace := rfl
      onTheWay := hsilent
      schedule := by simp [arrived_inputs, hin] },
    rfl⟩

/-- A silent stretch in which the link is stale blanks in every cycle. -/
theorem run_silent_blanks {s : State} {is rest : List CycleInput} (hi : BoundaryInv s) (hw : waiting s = [])
    (hin : s.inputs = is ++ rest) (h : silentStale s.cfg s.lastT is = true) :
    ∃ t, Host.Core.run Sys2Proof.core is.length s = .next t ∧ Blanked s is t := by
  induction is generalizing s with
  | nil => exact ⟨s, rfl, .refl hi hw⟩
  | cons i is ih =>
    obtain ⟨t, hstep, hblank, -⟩ := step_blanks hi hw hin h
    have hin' : t.inputs = is ++ rest := (List.cons.inj (hblank.schedule.symm.trans hin)).2
    have hrest : silentStale t.cfg t.lastT is = true := by
      rw [hblank.cfg, hblank.lastT]
      exact (silentStale_cons_iff.mp h).2
    obtain ⟨u, hrun, hblank'⟩ := ih hblank.boundary hblank.onTheWay hin' hrest
    exact ⟨u, by rw [List.length_cons, run_succ_of_step _ hstep, hrun], hblank.trans hblank'⟩

theorem waiting_eq_nil {s : State} (hq : s.rxq = []) (hh : s.held = []) : waiting s = [] := by
  rw [waiting, hq, hh, List.append_nil]

/-- Settles O48: `run_silent_blanks`, by induction on the stretch. -/
theorem staleStretchRepeatsBlanks : Obligations.StaleStretchRepeatsBlanks := by
  intro s is rest hi hq hh hin hsilent
  obtain ⟨t, hrun, hblank⟩ := run_silent_blanks hi (waiting_eq_nil hq hh) hin hsilent
  exact ⟨t, hrun, hblank.presents, hblank.cursor, hblank.lastT, hblank.indTrace,
    List.append_cancel_left (hblank.schedule.symm.trans hin)⟩

/-! ## The frame after a timeout (R127, C2) -/

/-- The byte that the last cycle `i` of a calm stretch takes is on its way behind those that the stretch before it has stored. -/
theorem Stored.last_byte {s u : State} {is rest : List CycleInput} {bs : List Byte} {i : CycleInput}
    (hst : Stored s is bs u) (hlen : bs.length = taken (waiting s).length is) (hin : s.inputs = is ++ i :: rest)
    (hcalm : calm s.cfg s.lastT (waiting s).length (is ++ [i]) = true)
    (hlast : taken (waiting s).length (is ++ [i]) = taken (waiting s).length is + 1) :
    u.inputs = i :: rest ∧ i.rst = false ∧ i.wellTyped s.cfg = true ∧
      ∃ b w, waiting (arrived u) = b :: w ∧ waiting s ++ arrivedBytes (is ++ [i]) = bs ++ b :: w := by
  have hleft : (waiting s).length + (arrivedBytes is).length - taken (waiting s).length is = (waiting u).length := by
    rw [← List.length_append, hst.onTheWay, List.length_append, hlen, Nat.add_sub_cancel_left]
  obtain ⟨-, l, hcalmLast⟩ := calm_snoc hcalm
  rw [hleft] at hcalmLast
  rw [taken_snoc, hleft] at hlast
  obtain ⟨hr, ht, hkept, -⟩ := calm_cons_iff.mp hcalmLast
  have hinputs : u.inputs = i :: rest := List.append_cancel_left (hst.schedule.symm.trans hin)
  obtain ⟨b, w, hw⟩ := exists_cons_of_taken (w := waiting u) (i := i) (by omega)
  refine ⟨hinputs, hr, ht, b, w, ?_, ?_⟩
  · rw [waiting_arrived hst.boundary hinputs (by rwa [hst.cfg]), hw]
  · rw [arrivedBytes_append, ← List.append_assoc, hst.onTheWay, arrivedBytes_cons, arrivedBytes_nil, List.append_nil,
      List.append_assoc, hw]

/-- A calm stretch whose last cycle takes the frame's last byte, from any cursor: the frame presented holds the bytes of the
stretch from that cursor on, and below it what the buffer held. -/
theorem run_calm_completes {s : State} {is rest : List CycleInput} {i : CycleInput} (hi : BoundaryInv s)
    (hin : s.inputs = is ++ i :: rest) (hcalm : calm s.cfg s.lastT (waiting s).length (is ++ [i]) = true)
    (hF : s.cursor + taken (waiting s).length is + 1 = s.cfg.frameBytes)
    (hlast : taken (waiting s).length (is ++ [i]) = taken (waiting s).length is + 1) :
    ∃ t bs, Host.Core.run Sys2Proof.core (is.length + 1) s = .next t ∧
      t.presents = s.presents ++
        [⟨.frame, Memory.snapshot s.cfg.frameBytes (storeFrom s.fb s.cursor bs), i.now⟩] ∧
      t.cursor = 0 ∧ s.cursor + bs.length = s.cfg.frameBytes ∧
      ∃ w, waiting s ++ arrivedBytes (is ++ [i]) = bs ++ w := by
  obtain ⟨u, bs, hrun, hst, hlen⟩ := run_calm_stores hi hin (calm_snoc hcalm).1 (by omega)
  obtain ⟨hinputs, hr, ht, b, w, hw, hbytes⟩ := hst.last_byte hlen hin hcalm hlast
  obtain ⟨t, hstep, hpresents, -, hcursor, -⟩ := step_completes hst.boundary hinputs (by rwa [hst.cfg]) hr hw
    (by rw [hst.cursor, hst.cfg, hlen, hF])
  refine ⟨t, bs ++ [b], ?_, ?_, hcursor, ?_, w, ?_⟩
  · rw [run_add _ 1 hrun, run_succ_of_step 0 hstep]
    rfl
  · rw [hpresents, hst.presents, hst.cfg, hst.buffer, hst.cursor, storeFrom_append]
    rfl
  · rw [List.length_append, hlen, ← Nat.add_assoc]
    exact hF
  · rw [hbytes, List.append_assoc]
    rfl

/-- Bytes stored in a blank buffer, up to its end: the addresses below them stay 0. -/
theorem snapshot_storeFrom_blank {size a : Nat} {bs : List Byte} (hfit : a + bs.length = size) :
    Memory.snapshot size (storeFrom Memory.blank a bs) = List.replicate a 0#8 ++ bs := by
  have hwf := Memory.wf_blank size
  refine List.ext_getElem? fun k => ?_
  by_cases hsize : k < size
  · rw [Memory.snapshot_get _ hsize]
    by_cases hk : k < a
    · rw [read_storeFrom_outside hwf hfit.le (.inl hk), Memory.read_blank,
        List.getElem?_append_left (by simpa using hk), List.getElem?_replicate_of_lt hk]
    · obtain ⟨j, rfl⟩ := Nat.exists_eq_add_of_le (Nat.not_lt.mp hk)
      have hj : j < bs.length := by omega
      rw [read_storeFrom_inside hwf hfit.le (List.getElem?_eq_getElem hj), List.getElem?_append_right (by simp)]
      simp [hj]
  · rw [List.getElem?_eq_none (by simp; omega), List.getElem?_eq_none (by simp; omega)]

/-- Settles O49: the stale cycle blanks the buffer and keeps the cursor (`step_blanks`); from there the stretch completes the frame
(`run_calm_completes`). -/
theorem timeoutKeepsTheCursor : Obligations.TimeoutKeepsTheCursor := by
  intro s i0 i is rest hi hq hh hin hsilent hcalm hF hlast
  obtain ⟨u, hstep, hblank, hfb⟩ := step_blanks hi (waiting_eq_nil hq hh) hin hsilent
  have hin' : u.inputs = is ++ i :: rest := (List.cons.inj (hblank.schedule.symm.trans hin)).2
  have hw : (waiting u).length = 0 := by rw [hblank.onTheWay, List.length_nil]
  obtain ⟨t, bs, hrun, hpresents, hcursor, hlen, w, hbytes⟩ := run_calm_completes hblank.boundary hin'
    (by rwa [hw, hblank.cfg, hblank.lastT]) (by rwa [hw, hblank.cfg, hblank.cursor]) (by rwa [hw])
  rw [hblank.cursor, hblank.cfg] at hlen
  rw [hblank.onTheWay, List.nil_append] at hbytes
  refine ⟨t, ⟨.frame, Memory.snapshot u.cfg.frameBytes (storeFrom u.fb u.cursor bs), i.now⟩, ?_, ?_, rfl, ?_, rfl,
    hcursor⟩
  · rw [run_succ_of_step _ hstep, hrun]
  · rw [hpresents, hblank.presents, List.append_assoc]
    rfl
  · rw [hblank.cfg, hblank.cursor, hfb, snapshot_storeFrom_blank hlen, hbytes,
      List.take_left' (Nat.eq_sub_of_add_eq' hlen)]

end Sys2Proof.Machine

/-!
Proofs about the frame slot and the core cycle (42_frame_cycle.md): FRAME_NONE and FRAME_COMPLETE (R141, R142), Present (R145), the
cycle as the sequence of its slots (R150), its totality (R149, R151), its presents (R152, R153), and the drain (R146, R147, R154).
-/

namespace Sys2Proof.Machine

/-! ## The frame slot and Present (R141, R142, R145) -/

theorem exec_frameNone (s : State) : exec .frameNone s = .next { s with cursor := s.n, rxFlush := false } := rfl

theorem exec_frameComplete (s : State) :
    exec .frameComplete s =
      .next { s with presents := s.presents ++ [⟨.frame, Memory.snapshot s.cfg.frameBytes s.fb, s.now⟩], cursor := 0,
                     rxq := [], rxFlush := true, complete := false } := rfl

/-- Settles O15: the word of FRAME_NONE's row, and the operation's equation. -/
theorem frameNoneStoresCount : Obligations.FrameNoneStoresCount :=
  ⟨decode_encode .frameNone, exec_frameNone⟩

/-- Settles O16: the word of FRAME_COMPLETE's row, and the operation's equation with the snapshot of the buffer. -/
theorem frameCompletePresentsResetsDrains : Obligations.FrameCompletePresentsResetsDrains :=
  ⟨decode_encode .frameComplete, fun s =>
    ⟨_, exec_frameComplete s, Memory.snapshot_length _ _, fun _ => Memory.snapshot_get s.fb⟩⟩

/-- Settles O18: a present is its snapshot added to the log, and the laws of the buffer read the snapshot. -/
theorem presentTakesASnapshot : Obligations.PresentTakesASnapshot :=
  fun _ s => ⟨_, rfl, Memory.snapshot_length _ _, fun _ => Memory.snapshot_get s.fb⟩

/-! ## The cycle and its operations (R76, R150) -/

/-- A reset cycle of the block is the operation RESET and the end of the cycle. -/
theorem blockCycle_exec_reset {c : Cin} {s : State} (h : c.rst = true) :
    blockCycle c s = Result.andThen (exec .reset (openCycle c.now s)) fun t => .next (closeCycle t) := by
  simp only [blockCycle, decodeRst_rstSelector, h, if_true]

/-- A running step is the three slots, on the word that the poll of the arrived queue answers. -/
theorem step_running {s : State} (ha : s.cfg.admitted = true) (ht : nextTyped s) (hr : resets s = false) :
    step s =
      runSlots (rxPoll (nextInput s).bus (arrived s)).1
        (openCycle (nextInput s).now (rxPoll (nextInput s).bus (arrived s)).2) := by
  have hrun : ¬ (nextInput s).rst = true := Bool.eq_false_iff.mp hr
  rw [step_of_typed ha ht, formCin, if_neg hrun, blockCycle_run rfl]

/-- Settles O21: `blockCycle_exec_reset` for a reset cycle, and `step_running`, whose slots run the operations decoded. -/
theorem stepRunsTheDecodedOperations : Obligations.StepRunsTheDecodedOperations := by
  refine fun s ha ht => ⟨fun hr => ⟨decode_encode .reset, ?_⟩, fun hr => ⟨_, _, rfl, _, rfl, step_running ha ht hr⟩⟩
  have hreset : (nextInput s).rst = true := hr
  rw [step_of_typed ha ht, formCin, if_pos hreset, blockCycle_exec_reset rfl]

/-! ## Every cycle completes (R149, R151) -/

/-- The next record is the head of a well-typed schedule, or a free one, whose time is narrowed to TIME_W bits. -/
theorem nextTyped_of_scheduleTyped {s : State} (h : scheduleTyped s) : nextTyped s := by
  cases hin : s.inputs with
  | nil =>
    rw [nextTyped, nextInput, takeInput_nil hin]
    exact freeInput_wellTyped _ _
  | cons i is =>
    rw [nextTyped, (next_of_inputs hin).1]
    exact h i (hin ▸ List.mem_cons_self)

/-- With the cursor in range every kind of cycle answers a next state, with the cursor in range and one record fewer to come. -/
theorem step_advances {s : State} (ha : s.cfg.admitted = true) (hc : s.cursor < s.cfg.frameBytes)
    (ht : nextTyped s) : ∃ t, step s = .next t ∧ t.cursor < s.cfg.frameBytes ∧ t.inputs = s.inputs.tail := by
  have hpos : 0 < s.cfg.frameBytes := Nat.zero_lt_of_lt hc
  obtain ⟨-, e⟩ | ⟨-, -, -, e⟩ | ⟨-, -, -, e⟩ | ⟨b, q, -, -, hn, e⟩ | ⟨b, q, -, -, -, e⟩ :=
    step_cases ha hc ht <;> refine ⟨_, e, ?_, arrived_inputs s⟩
  · exact hpos
  · exact (arrived_cursor s).symm ▸ hc
  · exact (arrived_cursor s).symm ▸ hc
  · exact hn
  · exact hpos

/-- Settles O29: the step by `step_advances`; the records left to come are among those of the schedule before. -/
theorem everyCycleCompletes : Obligations.EveryCycleCompletes := by
  intro s ha hc hs
  obtain ⟨t, hstep, hcursor, hinputs⟩ := step_advances ha hc (nextTyped_of_scheduleTyped hs)
  have hcfg := parametersNeverChange s t hstep
  refine ⟨t, hstep, hcfg ▸ hcursor, fun i hi => ?_⟩
  rw [hinputs] at hi
  exact hcfg ▸ hs i (List.mem_of_mem_tail hi)

/-- Settles O30: by induction on the cycles, each of which completes, keeps the invariant and leaves the schedule well typed. -/
theorem runsNeverStop : Obligations.RunsNeverStop := by
  intro k
  induction k with
  | zero => exact fun s hi _ => ⟨s, rfl, hi⟩
  | succ k ih =>
    intro s hi hs
    obtain ⟨t, hstep, -, hs'⟩ := everyCycleCompletes s hi.admitted hi.cursorInRange hs
    rw [run_succ_of_step k hstep]
    exact ih t (stepKeepsInvariant s t hi hstep) hs'

/-! ## The presents of a cycle (R152, R153) -/

theorem completes_of_empty {s : State} (hq : (arrived s).rxq = []) : completes s = false := by
  simp [completes, accepts_of_empty hq]

theorem completes_of_cons {s : State} {b : Byte} {q : List Byte} (hr : resets s = false)
    (hq : (arrived s).rxq = b :: q) : completes s = decide (s.cursor + 1 = s.cfg.frameBytes) := by
  rw [completes, accepts_of_cons hr hq, Bool.true_and, beq_eq_decide]

/-- R152: a stale cycle finds no byte, and a frame completes only with one. -/
theorem not_staleNext_and_completes (s : State) : ¬ (staleNext s = true ∧ completes s = true) := by
  rintro ⟨hs, hc⟩
  obtain ⟨-, hq, -⟩ := idle_of_staleNext hs
  rw [completes_of_empty hq] at hc
  exact Bool.false_ne_true hc

/-- R153: what each kind of cycle adds to the present log. -/
theorem step_presents {s : State} (hi : BoundaryInv s) (ht : nextTyped s) :
    ∃ t, step s = .next t ∧
      t.presents = s.presents ++
        (if staleNext s then [⟨.blank, Memory.snapshot s.cfg.frameBytes t.fb, (nextInput s).now⟩]
         else if completes s then [⟨.frame, Memory.snapshot s.cfg.frameBytes t.fb, (nextInput s).now⟩]
         else []) := by
  obtain ⟨hr, e⟩ | ⟨hr, hq, hs, e⟩ | ⟨hr, hq, hs, e⟩ | ⟨b, q, hr, hq, hn, e⟩ | ⟨b, q, hr, hq, hn, e⟩ :=
    step_cases hi.admitted hi.cursorInRange ht <;> refine ⟨_, e, ?_⟩
  · simp [staleNext, completes, accepts, hr]
  · simp [staleNext_of_empty hr hq, hs, completes_of_empty hq]
  · simp [staleNext_of_empty hr hq, hs, Memory.snapshot_blank]
  · simp [staleNext_of_cons hr hq, completes_of_cons hr hq, hn.ne]
  · simp [staleNext_of_cons hr hq, completes_of_cons hr hq, hn]

/-- Settles O31: the present by `step_presents`; a stale cycle leaves the blank buffer (`step_stale`) and completes no frame. -/
theorem atMostOnePresentPerCycle : Obligations.AtMostOnePresentPerCycle := by
  intro s hi ht
  obtain ⟨t, hstep, hpresents⟩ := step_presents hi ht
  refine ⟨t, hstep, hpresents, fun hs => ?_, not_staleNext_and_completes s⟩
  obtain ⟨u, hu, -, hfb, -⟩ := step_stale hi.admitted ht hs
  cases hstep.symm.trans hu
  exact hfb

/-! ## The drain (R146, R147, R154) -/

/-- `s` with another queue. -/
def withQueue (q : List Byte) (s : State) : State := { s with rxq := q }

theorem takeInput_withQueue (q : List Byte) (s : State) :
    takeInput (withQueue q s) = ((takeInput s).1, withQueue q (takeInput s).2) := by
  cases h : s.inputs with
  | nil => rw [takeInput_nil h, takeInput_nil (s := withQueue q s) h]; rfl
  | cons i is => rw [takeInput_cons h, takeInput_cons (s := withQueue q s) h]; rfl

/-- The slots of a frame's last byte end the same whatever is queued behind it. -/
theorem runSlots_withQueue {w : RxWord} {s : State} (hv : rxValid w = true) (hn : s.cursor + 1 = s.cfg.frameBytes)
    (q : List Byte) : runSlots w (withQueue q s) = runSlots w s := by
  rw [runSlots_byte_complete hv hn, runSlots_byte_complete (s := withQueue q s) hv hn]
  rfl

/-- The cycle of a frame's last byte, where its arrivals do nothing but put that byte at the head of the queue: no byte behind the
last one has a part in it. -/
theorem inputCycle_last_byte {i : CycleInput} {s : State} {b : Byte} {q : List Byte} (ht : i.wellTyped s.cfg = true)
    (hr : i.rst = false) (hq : arrive i.arrivals s = withQueue (b :: q) s) (hn : s.cursor + 1 = s.cfg.frameBytes) :
    inputCycle i s = runSlots (rxSome b) (openCycle i.now s) := by
  rw [inputCycle_cons ht hr (congrArg State.rxq hq), hq]
  exact runSlots_withQueue (s := openCycle i.now s) (rxValid_rxSome b) hn q

/-- A frame's last byte leaves the block at the start of the next frame, with nothing queued. -/
theorem runSlots_last_byte_resynchronises {w : RxWord} {s : State} (hv : rxValid w = true)
    (hn : s.cursor + 1 = s.cfg.frameBytes) : ∃ t, runSlots w s = .next t ∧ t.cursor = 0 ∧ t.rxq = [] :=
  ⟨_, runSlots_byte_complete hv hn, rfl, rfl⟩

/-- One end for every queue behind a frame's last byte, in a cycle with no arrival. -/
theorem step_last_byte_drains {s : State} {b : Byte} (ha : s.cfg.admitted = true) (ht : nextTyped s)
    (hr : resets s = false) (harrivals : (nextInput s).arrivals = []) (hheld : s.held = [])
    (hn : s.cursor + 1 = s.cfg.frameBytes) :
    ∃ t, (∀ q, step (withQueue (b :: q) s) = .next t) ∧ t.cursor = 0 ∧ t.rxq = [] := by
  obtain ⟨is, k, e⟩ := takeInput_state s
  have ht' : (nextInput s).wellTyped (takeInput s).2.cfg = true := by rw [e]; exact ht
  have hn' : (takeInput s).2.cursor + 1 = (takeInput s).2.cfg.frameBytes := by rw [e]; exact hn
  have hheld' : (takeInput s).2.held = [] := by rw [e]; exact hheld
  obtain ⟨t, hslots, hend⟩ := runSlots_last_byte_resynchronises (s := openCycle (nextInput s).now (takeInput s).2)
    (rxValid_rxSome b) hn'
  refine ⟨t, fun q => ?_, hend⟩
  have harrive : arrive (nextInput s).arrivals (withQueue (b :: q) (takeInput s).2) =
      withQueue (b :: q) (takeInput s).2 := by
    rw [harrivals]
    exact arrive_nil hheld'
  calc step (withQueue (b :: q) s)
    _ = inputCycle (nextInput s) (withQueue (b :: q) (takeInput s).2) := by
      rw [step_of_admitted (s := withQueue (b :: q) s) ha, takeInput_withQueue, nextInput]
    _ = runSlots (rxSome b) (openCycle (nextInput s).now (withQueue (b :: q) (takeInput s).2)) :=
      inputCycle_last_byte ht' hr harrive hn'
    _ = runSlots (rxSome b) (openCycle (nextInput s).now (takeInput s).2) :=
      runSlots_withQueue (s := openCycle (nextInput s).now (takeInput s).2) (rxValid_rxSome b) hn' (b :: q)
    _ = .next t := hslots

/-- Settles O44: the queue of the last byte alone and the one with the extras behind it are two of the queues of
`step_last_byte_drains`. -/
theorem queuedExtrasLeaveNoTrace : Obligations.QueuedExtrasLeaveNoTrace := by
  intro s b extra hi ht hr harrivals hheld hq hn
  have halone : withQueue [b] s = s := by rw [← hq]; rfl
  obtain ⟨t, hstep, hend⟩ := step_last_byte_drains (b := b) hi.admitted ht hr harrivals hheld hn
  exact ⟨t, halone ▸ hstep [], hstep extra, hend⟩

/-- The scheduled cycle of a frame's last byte, already queued: bytes that find room behind it have no part in it. -/
theorem step_arrivals_behind_last_byte {s : State} {i : CycleInput} {b : Byte} {q : List Byte} (bs : List Byte)
    (is : List CycleInput) (ha : s.cfg.admitted = true) (ht : i.wellTyped s.cfg = true) (hr : i.rst = false)
    (hheld : s.held = []) (hq : s.rxq = b :: q) (hn : s.cursor + 1 = s.cfg.frameBytes)
    (hroom : s.rxq.length + bs.length ≤ s.cfg.rxqDepth) :
    step { s with inputs := { i with arrivals := bs } :: is } =
      runSlots (rxSome b) (openCycle i.now { s with inputs := is }) := by
  have harrive : arrive bs { s with inputs := is } = withQueue (b :: (q ++ bs)) { s with inputs := is } := by
    rw [arrive_room (s := { s with inputs := is }) hheld hroom, hq]
    rfl
  rw [step_scheduled (s := { s with inputs := { i with arrivals := bs } :: is }) ha rfl]
  exact inputCycle_last_byte (i := { i with arrivals := bs }) ht hr harrive hn

/-- Settles O45: the cycle with the arrivals and the one without are both those of `step_arrivals_behind_last_byte`. -/
theorem arrivalsBehindTheLastByteAreDrained : Obligations.ArrivalsBehindTheLastByteAreDrained := by
  intro s i bs is hi ht hr hheld hq hn hroom
  obtain ⟨b, q, hq⟩ := List.exists_cons_of_ne_nil hq
  have hnone : s.rxq.length + ([] : List Byte).length ≤ s.cfg.rxqDepth := hi.queueInDepth
  have hstep := fun bs => step_arrivals_behind_last_byte bs is hi.admitted ht hr hheld hq hn
  obtain ⟨t, hslots, -, hrxq⟩ := runSlots_last_byte_resynchronises
    (s := openCycle i.now { s with inputs := is }) (rxValid_rxSome b) hn
  exact ⟨t, (hstep bs hroom).trans hslots, (hstep [] hnone).trans hslots, hrxq⟩

end Sys2Proof.Machine

/-!
Proofs about reset (70_reset_and_hazards.md): RESET and the cycle it makes (R190, R192), several reset cycles in a row (R190,
corner case 3), and the first running cycle after a reset (R191, R132).
-/

namespace Sys2Proof.Machine

/-! ## RESET and its cycle (R190, R192) -/

theorem exec_reset (s : State) :
    exec .reset s =
      .next { s with fb := Memory.blank, cursor := 0, lastT := s.now, ind := s.cfg.indAtReset, rxPop := false,
                     rxFlush := false, complete := false } := rfl

/-- Settles O17: the word of RESET's row, and the operation's equation with the blank buffer. -/
theorem resetInitialisesTheBlock : Obligations.ResetInitialisesTheBlock :=
  ⟨decode_encode .reset, fun s => ⟨Memory.blank, exec_reset s, Memory.read_blank⟩⟩

/-- The boundary state that a reset cycle at time `t` makes of the state `s` at its start. -/
def afterReset (t : Nat) (s : State) : State :=
  { s with fb := Memory.blank, cursor := 0, lastT := t, ind := s.cfg.indAtReset, rxPop := false, rxFlush := false, now := 0,
           n := 0, complete := false }

/-- A second reset overwrites all that the first has written. -/
theorem afterReset_afterReset (t t' : Nat) (s : State) : afterReset t' (afterReset t s) = afterReset t' s := rfl

/-- RESET neither reads nor writes the transport (D22). -/
theorem arrive_afterReset (bs : List Byte) (t : Nat) (s : State) :
    arrive bs (afterReset t s) = afterReset t (arrive bs s) := rfl

theorem step_afterReset {s : State} (ha : s.cfg.admitted = true) (ht : nextTyped s) (hr : resets s = true) :
    step s = .next (afterReset (nextInput s).now (arrived s)) := by
  rw [step_reset ha ht hr, ← arrived_cfg s]
  rfl

/-- The step of a scheduled reset cycle. -/
theorem step_scheduled_reset {s : State} {i : CycleInput} {is : List CycleInput} (ha : s.cfg.admitted = true)
    (hin : s.inputs = i :: is) (ht : i.wellTyped s.cfg = true) (hr : i.rst = true) :
    step s = .next (afterReset i.now (arrive i.arrivals { s with inputs := is })) := by
  obtain ⟨rfl, harrived⟩ := next_of_inputs hin
  rw [step_afterReset ha ht hr, harrived]

/-- Settles O37: R192's list, read off the state of `step_afterReset`. -/
theorem resetCycleStateInOneList : Obligations.ResetCycleStateInOneList := by
  intro s hi ht hr
  exact ⟨_, step_afterReset hi.admitted ht hr, Memory.read_blank, rfl, rfl, congrArg Config.indAtReset (arrived_cfg s), rfl,
    arrived_presents s, rfl, rfl, rfl, rfl⟩

/-! ## Reset cycles in a row (R190, corner case 3) -/

/-- Under Stall the queue takes as many of the bytes on their way as it has places, and the sender holds the others back. -/
theorem arrive_stall {s : State} (bs : List Byte) (ho : s.cfg.rxqOverflow = .stall) (hd : 1 ≤ s.cfg.rxqDepth)
    (hq : s.rxq.length ≤ s.cfg.rxqDepth) :
    arrive bs s = { s with rxq := (waiting s ++ bs).take s.cfg.rxqDepth, held := (waiting s ++ bs).drop s.cfg.rxqDepth } := by
  obtain ⟨-, -, hstall⟩ := overflowFollowsPolicy s bs hd hq
  exact hstall ho

/-- Arrivals in two instalments with no poll between them are the same as in one: bytes held back keep their place (R66). -/
theorem arrive_arrive {s : State} (hi : BoundaryInv s) (as bs : List Byte) :
    arrive bs (arrive as s) = arrive (as ++ bs) s := by
  by_cases ho : s.cfg.rxqOverflow = .stall
  · obtain ⟨-, -, -, -, hd⟩ := admitted_iff.mp hi.admitted
    have hq : (arrive as s).rxq.length ≤ s.cfg.rxqDepth := offerAll_length _ hd hi.queueInDepth
    have hwaiting : waiting (arrive as s) = waiting s ++ as := stallLosesNoByte s as ho
    rw [arrive_stall (s := arrive as s) bs ho hd hq, hwaiting, arrive_stall (as ++ bs) ho hd hi.queueInDepth,
      List.append_assoc]
    rfl
  · have hheld : (arrive as s).held = [] := offerAll_held _ ho
    have hfirst : offerAll s.cfg (s.rxq, []) (s.held ++ as) = ((arrive as s).rxq, []) := Prod.ext rfl hheld
    have hboth : offerAll s.cfg (s.rxq, []) (s.held ++ (as ++ bs)) =
        offerAll s.cfg ((arrive as s).rxq, []) ((arrive as s).held ++ bs) := by
      rw [← List.append_assoc, offerAll_append, hfirst, hheld, List.nil_append]
    rw [arrive_eq hboth]
    rfl

/-- Settles O38: the second reset overwrites what the first wrote, and `arrive_arrive` does the same for the bytes held back. -/
theorem repeatedResetsAreOne : Obligations.RepeatedResetsAreOne := by
  intro s i j is hi hti htj hri hrj harrivals
  have hi' : BoundaryInv { s with inputs := is } := { hi with }
  have hfirst : step { s with inputs := i :: j :: is } =
      .next (afterReset i.now (arrive i.arrivals { s with inputs := j :: is })) :=
    step_scheduled_reset hi.admitted rfl hti hri
  have hsecond : step (afterReset i.now (arrive i.arrivals { s with inputs := j :: is })) =
      .next (afterReset j.now (arrive j.arrivals (afterReset i.now (arrive i.arrivals { s with inputs := is })))) :=
    step_scheduled_reset hi.admitted rfl htj hrj
  have halone : step { s with inputs := j :: is } = .next (afterReset j.now (arrive j.arrivals { s with inputs := is })) :=
    step_scheduled_reset hi.admitted rfl htj hrj
  refine ⟨_, ?_, halone⟩
  rw [run_succ_of_step 1 hfirst, run_succ_of_step 0 hsecond, arrive_afterReset, afterReset_afterReset, arrive_arrive hi',
    harrivals, List.nil_append]
  rfl

/-! ## The first running cycle (R191, R132) -/

/-- What a running cycle with no byte makes of timestamp, indicator and present log. -/
theorem step_idle {s : State} (ha : s.cfg.admitted = true) (ht : nextTyped s) (hr : resets s = false)
    (hq : (arrived s).rxq = []) :
    ∃ t, step s = .next t ∧ t.lastT = s.lastT ∧ t.ind = !staleAt s.cfg (nextInput s).now s.lastT ∧
      t.presents = s.presents ++
        (if staleAt s.cfg (nextInput s).now s.lastT then
          [⟨.blank, List.replicate s.cfg.frameBytes 0#8, (nextInput s).now⟩] else []) := by
  cases hs : staleAt s.cfg (nextInput s).now s.lastT with
  | false => exact ⟨_, step_idle_active ha ht hr hq hs, arrived_lastT s, rfl, by simp⟩
  | true => exact ⟨_, step_idle_stale ha ht hr hq hs, arrived_lastT s, rfl, rfl⟩

/-- R26: link active is the negation of stale. -/
theorem not_staleAt (c : Config) (now last : Nat) : (!staleAt c now last) = decide (elapsed c.timeW now last ≤ c.tMs) := by
  rw [staleAt, ← decide_not, decide_eq_decide, Nat.not_lt]

/-- The same of a scheduled running cycle to which no byte comes. -/
theorem step_silent {s : State} {j : CycleInput} {is : List CycleInput} (ha : s.cfg.admitted = true)
    (hin : s.inputs = j :: is) (ht : j.wellTyped s.cfg = true) (hr : j.rst = false) (harrivals : j.arrivals = [])
    (hq : s.rxq = []) (hheld : s.held = []) :
    ∃ t, step s = .next t ∧ t.lastT = s.lastT ∧ t.ind = !staleAt s.cfg j.now s.lastT ∧
      t.presents = s.presents ++
        (if staleAt s.cfg j.now s.lastT then [⟨.blank, List.replicate s.cfg.frameBytes 0#8, j.now⟩] else []) := by
  obtain ⟨rfl, harrived⟩ := next_of_inputs hin
  rw [harrivals, arrive_nil (s := { s with inputs := is }) hheld] at harrived
  have hempty : (arrived s).rxq = [] := by rw [harrived, hq]
  exact step_idle ha ht hr hempty

/-- Settles O50: the reset cycle leaves its own time as the timestamp, which `step_silent` reads in the next. -/
theorem startupTimeout : Obligations.StartupTimeout := by
  intro s i j is hi hq hheld hin hti htj hri hrj harri harrj
  have hreset : step s = .next (afterReset i.now { s with inputs := j :: is }) := by
    rw [step_scheduled_reset hi.admitted hin hti hri, harri, arrive_nil (s := { s with inputs := j :: is }) hheld]
  obtain ⟨t, hstep, hlast, hind, hpresents⟩ :=
    step_silent (s := afterReset i.now { s with inputs := j :: is }) hi.admitted rfl htj hrj harrj hq hheld
  simp only [staleAt_eq_true_iff] at hpresents
  have hrun : Host.Core.run Sys2Proof.core 2 s = .next t :=
    (run_succ_of_step 1 hreset).trans (run_succ_of_step 0 hstep)
  exact ⟨t, hrun, hlast, hind.trans (not_staleAt _ _ _), hpresents⟩

end Sys2Proof.Machine

/-!
Proofs about the indicator trace (R34, log 8), and about three choices of the model: the write outside the buffer (log 9), the values
of the state after reset (logs 1, 2, 3 and 12) and the pseudo-statements that R86 leaves open (log 17).
-/

namespace Sys2Proof.Machine

/-! ## The indicator trace (R34, R190) -/

/-- Settles O34: `step_liveness` gives the level and the trace of a cycle of either kind. -/
theorem traceGainsRunningLevels : Obligations.TraceGainsRunningLevels := by
  intro s hi ht
  obtain ⟨t, hstep, hind, htrace, -⟩ := step_liveness hi ht
  exact ⟨t, hstep, fun hr => hind.trans (if_pos hr), htrace⟩

/-! ## ACCEPT_BYTE outside the buffer (R59, log 9) -/

/-- What ACCEPT_BYTE answers with the cursor outside the buffer, where `exec_acceptByte` says nothing. -/
theorem exec_acceptByte_outside (d : Byte) {s : State} (h : ¬ s.cursor < s.cfg.frameBytes) :
    exec (.acceptByte d) s = .fault (.noSuchAddress (byteAddress s)) := by
  simpa [rxSlot, byteAddress] using rxSlot_outside (rxValid_rxSome d) h

/-- Settles O11: a cursor at or above F is not below it. -/
theorem acceptByteOutsideBufferFaults : Obligations.AcceptByteOutsideBufferFaults :=
  fun d _ h => exec_acceptByte_outside d (Nat.not_lt.mpr h)

/-! ## The state after reset (R192) -/

/-- Settles O28: the parameters have admitted values, and no list of the state holds an entry. -/
theorem resetMeetsInvariant : Obligations.ResetMeetsInvariant where
  admitted := admitted_iff.mpr (by decide)
  bufferWf := Memory.wf_blank _
  cursorInRange := frameBytes_pos (by decide) (by decide)
  timestampInRange := Nat.two_pow_pos _
  queueInDepth := Nat.zero_le _
  heldOnlyUnderStall := fun _ => rfl
  accumulating := rfl
  noLocals := ⟨rfl, rfl⟩
  flushAfterCompletion := nofun
  popMeansActive := nofun
  presentsWf := nofun

/-! ## Pseudo-statements without an expansion (log 17) -/

theorem expandStmt_wait_ends_before_start {c : Config} {t1 t2 d : Nat} (hd : 1 ≤ d) (h : t2 < t1) :
    expandStmt c (.wait t1 t2 d) = some [] := by
  rw [expandStmt, if_neg (Nat.ne_of_gt hd), if_pos h]

/-- A step of 0 is rejected before the order of start and end is looked at. -/
theorem expandStmt_wait_step_zero (c : Config) (t1 t2 : Nat) : expandStmt c (.wait t1 t2 0) = none := by
  rw [expandStmt, if_pos rfl]

theorem expandStmt_frame_of_length_ne {c : Config} {bs : List Byte} (t0 d : Nat) (h : bs.length ≠ c.frameBytes) :
    expandStmt c (.frame t0 d bs) = none := if_neg h

/-- Settles O53: the three cases that `expandStmt` guards against. -/
theorem pseudoStatementsOutsideTheRule : Obligations.PseudoStatementsOutsideTheRule :=
  fun c => ⟨fun _ _ _ => expandStmt_wait_ends_before_start, expandStmt_wait_step_zero c,
    fun t0 d _ => expandStmt_frame_of_length_ne t0 d⟩

end Sys2Proof.Machine
